-- ==== Sys2Proof/Word.lean ====
section
/-! DEFINITION. The words of the block: the widths that 10_state.md R52 and 30_encoding.md R90, R94 fix. -/

namespace Sys2Proof

/-- Four bits: one key-matrix row sample, one key code (R45, R183). -/
abbrev Nibble := BitVec 4

/-- Eight bits: a buffer element, a line register, the operand field `a` (R52, R90). -/
abbrev Byte := BitVec 8

/-- Sixteen bits: a timer count, the operand fields `b` and `c` (R52, R90). -/
abbrev Half := BitVec 16

/-- The command word `cmd[47:0]` (R90). -/
abbrev CommandWord := BitVec 48

/-- The result word `res`, 32 bits in two's complement (R94). -/
abbrev ResultWord := BitVec 32

/-- The 2-bit handler identifier of a vector-table entry (R37, R98). -/
abbrev VectorId := BitVec 2

end Sys2Proof
end

