-- ==== Sys2Proof/Syntax.lean ====
section
/-! DEFINITION. The instructions: one constructor per row of spec/opcode_table.json. Operands are the fields `a` (8 bits),
`b` and `c` (16 bits) of the command word as they stand (30_encoding.md R90, R92). -/

namespace Sys2Proof

inductive Instr where
  /-- `SYS.REGRD regno` (R240). -/
  | sysRegrd (a : Byte)
  /-- `RB.INIT capacity` (R110). -/
  | rbInit (a : Byte)
  /-- `RB.RESET` (R111). -/
  | rbReset
  /-- `RB.PUT byte` (R112). -/
  | rbPut (a : Byte)
  /-- `RB.GET` (R113). -/
  | rbGet
  /-- `RB.IS_EMPTY` (R114). -/
  | rbIsEmpty
  /-- `RB.IS_FULL` (R115). -/
  | rbIsFull
  /-- `RB.SIZE` (R116). -/
  | rbSize
  /-- `RB.CAPACITY` (R117). -/
  | rbCapacity
  /-- `IC.RESET` (R130). -/
  | icReset
  /-- `IC.CFG_GLOBAL irq_enable, vectored` (R131). -/
  | icCfgGlobal (a : Byte) (b : Half)
  /-- `IC.CFG_FIQ enable` (R132). -/
  | icCfgFiq (a : Byte)
  /-- `IC.SET_MODE line, mode` (R133). -/
  | icSetMode (a : Byte) (b : Half)
  /-- `IC.ENABLE line` (R134). -/
  | icEnable (a : Byte)
  /-- `IC.DISABLE line` (R135). -/
  | icDisable (a : Byte)
  /-- `IC.ACK line` (R136). -/
  | icAck (a : Byte)
  /-- `TM.SET_PRESCALER group, value` (R151). -/
  | tmSetPrescaler (a : Byte) (b : Half)
  /-- `TM.SET_DIVIDER timer, ratio` (R152). -/
  | tmSetDivider (a : Byte) (b : Half)
  /-- `TM.SET_COUNT timer, reload_count, compare_value` (R154). -/
  | tmSetCount (a : Byte) (b c : Half)
  /-- `TM.SET_MODE timer, mode` (R155). -/
  | tmSetMode (a : Byte) (b : Half)
  /-- `TM.COMMIT timer` (R156). -/
  | tmCommit (a : Byte)
  /-- `TM.START timer` (R157). -/
  | tmStart (a : Byte)
  /-- `TM.STOP timer` (R158). -/
  | tmStop (a : Byte)
  /-- `TM.IS_RUNNING timer` (R159). -/
  | tmIsRunning (a : Byte)
  /-- `TM.CFG_PERIOD timer, period, mode` (R160). -/
  | tmCfgPeriod (a : Byte) (b c : Half)
  /-- `KM.SCAN` (R180). -/
  | kmScan
  /-- `FSM.SETUP` (R190). -/
  | fsmSetup
  /-- `FSM.LOOP` (R191): a sequence of micro-steps at `fpc`. -/
  | fsmLoop
  /-- `key_isr` (R220): started by a vector-table entry, a sequence of micro-steps at `hpc`. -/
  | keyIsr
  /-- `timer_isr` (R226): started by a vector-table entry, a sequence of micro-steps at `hpc`. -/
  | timerIsr
deriving DecidableEq, Repr

end Sys2Proof
end

