-- ==== Sys2Proof/Decode.lean ====
section
/-! DEFINITION. Decoding and encoding (30_encoding.md R90, R91, R95 to R98). An encoding is a 48-bit command word or a 2-bit
handler identifier. Decoding is total: every word is one of the 28 commands or is rejected by name. -/

namespace Sys2Proof

/-- The two kinds of encoding: a command word (R90) and a handler identifier of the vector table (R98). -/
inductive Encoded where
  | command (w : CommandWord)
  | vector (id : VectorId)
deriving DecidableEq, Repr

/-- Why an encoding stands for no instruction. For a command word both reasons make it ILLEGAL (R96). -/
inductive Reject where
  /-- The `op` field is not in the table of R95. -/
  | unassignedOpcode (op : Byte)
  /-- A field the command's format leaves unused is not all zeros (R91). -/
  | unusedField (op : Byte)
  /-- The identifier selects no handler (R37). -/
  | noHandler (id : VectorId)
deriving DecidableEq, Repr

/-- The formats of R91: which operand fields a command uses. -/
inductive Format where
  | n | a | ab | abc
deriving DecidableEq, Repr

/-- `op`, bits 47:40 (R90). -/
def opField (w : CommandWord) : Byte := w.extractLsb' 40 8

/-- `a`, bits 39:32 (R90). -/
def aField (w : CommandWord) : Byte := w.extractLsb' 32 8

/-- `b`, bits 31:16 (R90). -/
def bField (w : CommandWord) : Half := w.extractLsb' 16 16

/-- `c`, bits 15:0 (R90). -/
def cField (w : CommandWord) : Half := w.extractLsb' 0 16

/-- The command word with the given fields (R90). -/
def commandWord (op a : Byte) (b c : Half) : CommandWord := op ++ a ++ b ++ c

/-- The fields a format leaves unused are all zeros (R91). -/
def unusedZero (f : Format) (a : Byte) (b c : Half) : Bool :=
  match f with
  | .n => a == 0#8 && b == 0#16 && c == 0#16
  | .a => b == 0#16 && c == 0#16
  | .ab => c == 0#16
  | .abc => true

/-- One row of the opcode map (R95). -/
structure OpcodeRow where
  op     : Byte
  format : Format
  build  : Byte → Half → Half → Instr

/-- Units 0 and 1 of R95: `SYS`, `RB`. -/
def opcodesSysRb : List OpcodeRow :=
  [ ⟨0x01#8, .a, fun a _ _ => .sysRegrd a⟩,
    ⟨0x10#8, .a, fun a _ _ => .rbInit a⟩,
    ⟨0x11#8, .n, fun _ _ _ => .rbReset⟩,
    ⟨0x12#8, .a, fun a _ _ => .rbPut a⟩,
    ⟨0x13#8, .n, fun _ _ _ => .rbGet⟩,
    ⟨0x14#8, .n, fun _ _ _ => .rbIsEmpty⟩,
    ⟨0x15#8, .n, fun _ _ _ => .rbIsFull⟩,
    ⟨0x16#8, .n, fun _ _ _ => .rbSize⟩,
    ⟨0x17#8, .n, fun _ _ _ => .rbCapacity⟩ ]

/-- Unit 2 of R95: `IC`. -/
def opcodesIc : List OpcodeRow :=
  [ ⟨0x20#8, .n, fun _ _ _ => .icReset⟩,
    ⟨0x21#8, .ab, fun a b _ => .icCfgGlobal a b⟩,
    ⟨0x22#8, .a, fun a _ _ => .icCfgFiq a⟩,
    ⟨0x23#8, .ab, fun a b _ => .icSetMode a b⟩,
    ⟨0x24#8, .a, fun a _ _ => .icEnable a⟩,
    ⟨0x25#8, .a, fun a _ _ => .icDisable a⟩,
    ⟨0x26#8, .a, fun a _ _ => .icAck a⟩ ]

/-- Unit 3 of R95: `TM`. -/
def opcodesTm : List OpcodeRow :=
  [ ⟨0x30#8, .ab, fun a b _ => .tmSetPrescaler a b⟩,
    ⟨0x31#8, .ab, fun a b _ => .tmSetDivider a b⟩,
    ⟨0x32#8, .abc, fun a b c => .tmSetCount a b c⟩,
    ⟨0x33#8, .ab, fun a b _ => .tmSetMode a b⟩,
    ⟨0x34#8, .a, fun a _ _ => .tmCommit a⟩,
    ⟨0x35#8, .a, fun a _ _ => .tmStart a⟩,
    ⟨0x36#8, .a, fun a _ _ => .tmStop a⟩,
    ⟨0x37#8, .a, fun a _ _ => .tmIsRunning a⟩,
    ⟨0x38#8, .abc, fun a b c => .tmCfgPeriod a b c⟩ ]

/-- Units 4 and 5 of R95: `KM`, `FSM`. -/
def opcodesKmFsm : List OpcodeRow :=
  [ ⟨0x40#8, .n, fun _ _ _ => .kmScan⟩,
    ⟨0x50#8, .n, fun _ _ _ => .fsmSetup⟩,
    ⟨0x51#8, .n, fun _ _ _ => .fsmLoop⟩ ]

/-- The complete opcode map (R95). -/
def opcodeMap : List OpcodeRow := opcodesSysRb ++ opcodesIc ++ opcodesTm ++ opcodesKmFsm

/-- The row of an opcode, if it is assigned (R95, R97). -/
def opcodeRow (op : Byte) : Option OpcodeRow := opcodeMap.find? fun r => r.op == op

/-- Decoding a command word (R95, R96): the table row of `op`, then the unused fields. -/
def decodeCommand (w : CommandWord) : Except Reject Instr :=
  match opcodeRow (opField w) with
  | none => .error (.unassignedOpcode (opField w))
  | some r =>
    if unusedZero r.format (aField w) (bField w) (cField w) then .ok (r.build (aField w) (bField w) (cField w))
    else .error (.unusedField (opField w))

/-- Decoding a handler identifier (R98): `V_KEY = 0b01`, `V_TMR = 0b10`; 0 registers none and 3 is never written (R37). -/
def decodeVector (id : VectorId) : Except Reject Instr :=
  if id = 0b01#2 then .ok .keyIsr
  else if id = 0b10#2 then .ok .timerIsr
  else .error (.noHandler id)

/-- Decoding either kind of encoding. -/
def decode : Encoded → Except Reject Instr
  | .command w => decodeCommand w
  | .vector id => decodeVector id

/-- The encoding of an instruction, from the tables of R95 and R98. -/
def encode : Instr → Encoded
  | .sysRegrd a => .command (commandWord 0x01 a 0 0)
  | .rbInit a => .command (commandWord 0x10 a 0 0)
  | .rbReset => .command (commandWord 0x11 0 0 0)
  | .rbPut a => .command (commandWord 0x12 a 0 0)
  | .rbGet => .command (commandWord 0x13 0 0 0)
  | .rbIsEmpty => .command (commandWord 0x14 0 0 0)
  | .rbIsFull => .command (commandWord 0x15 0 0 0)
  | .rbSize => .command (commandWord 0x16 0 0 0)
  | .rbCapacity => .command (commandWord 0x17 0 0 0)
  | .icReset => .command (commandWord 0x20 0 0 0)
  | .icCfgGlobal a b => .command (commandWord 0x21 a b 0)
  | .icCfgFiq a => .command (commandWord 0x22 a 0 0)
  | .icSetMode a b => .command (commandWord 0x23 a b 0)
  | .icEnable a => .command (commandWord 0x24 a 0 0)
  | .icDisable a => .command (commandWord 0x25 a 0 0)
  | .icAck a => .command (commandWord 0x26 a 0 0)
  | .tmSetPrescaler a b => .command (commandWord 0x30 a b 0)
  | .tmSetDivider a b => .command (commandWord 0x31 a b 0)
  | .tmSetCount a b c => .command (commandWord 0x32 a b c)
  | .tmSetMode a b => .command (commandWord 0x33 a b 0)
  | .tmCommit a => .command (commandWord 0x34 a 0 0)
  | .tmStart a => .command (commandWord 0x35 a 0 0)
  | .tmStop a => .command (commandWord 0x36 a 0 0)
  | .tmIsRunning a => .command (commandWord 0x37 a 0 0)
  | .tmCfgPeriod a b c => .command (commandWord 0x38 a b c)
  | .kmScan => .command (commandWord 0x40 0 0 0)
  | .fsmSetup => .command (commandWord 0x50 0 0 0)
  | .fsmLoop => .command (commandWord 0x51 0 0 0)
  | .keyIsr => .vector 0b01
  | .timerIsr => .vector 0b10

/-- The instruction the decoder reads from a table row's bits (log 18): a row of at most one byte is a handler identifier
(its two bits, the rest of the byte zero), any other is a 48-bit command word. -/
def decodeTableWord (nbits w : Nat) : Option Instr :=
  if nbits ≤ 8 then
    if w < 4 then (decodeVector (BitVec.ofNat 2 w)).toOption else none
  else if w < 2 ^ 48 then (decodeCommand (BitVec.ofNat 48 w)).toOption else none

end Sys2Proof
end

