-- ==== Sys2Proof/Config.lean ====
section
/-! DEFINITION. The parameters of the hardware (00_scope.md R6 to R9, 92_eei_decisions.md "Open parameters"), the operand
enumerations (30_encoding.md R93), the moves of the agents, and the free value that says which agent moves next. -/

namespace Sys2Proof

/-- Routing of an interrupt line: `IRQ = 0`, `FIQ = 1` (R93). -/
inductive LineMode where
  | irq | fiq
deriving DecidableEq, Repr

/-- Mode of a timer: `OneShot = 0`, `Reload = 1` (R93). -/
inductive TimerMode where
  | oneShot | reload
deriving DecidableEq, Repr

/-- Divider ratio: codes 0 to 6 (R93, R153). -/
inductive Ratio where
  | div2 | div4 | div8 | div16 | divx | ext4 | ext5
deriving DecidableEq, Repr

/-- The four canonical periods: codes 0 to 3 (R93, R161). -/
inductive Period where
  | twoSecs | oneSec | halfSec | quarterSec
deriving DecidableEq, Repr

/-- A row of `PERIOD_TABLE`: divider, reload count, compare value (R161). -/
structure PeriodRow where
  div   : Ratio
  count : Half
  cmp   : Half
deriving DecidableEq, Repr

/-- One move of one agent (00_scope.md R5). Which move comes next is a parameter of the step relation and not state of
the block (10_state.md R48); log 1 says how the model holds it. -/
inductive Event where
  /-- The host presents a command word on the port (R101). -/
  | present (w : CommandWord)
  /-- The foreground sequencer's turn (R101, R195). -/
  | foreground
  /-- The handler sequencer's turn (R230). -/
  | handler
  /-- `Deliver(l)` (R260, R262). -/
  | deliver (l : Fin 8)
  /-- `Pulse(t)` (R162). -/
  | pulse (t : Fin 6)
  /-- The environment changes its inputs (R45, R255; log 9). -/
  | input (rows : Vector Nibble 4) (pin : Bool)
  /-- Hardware reset (R290). -/
  | rst
deriving DecidableEq, Repr, Inhabited

namespace Config

/-- `RB_SLOTS` (R6). -/
def rbSlots : Nat := 4

/-- `PW_LEN` (R6): the keys a capture must reach. -/
def pwLen : Nat := 4

/-- `PSC_MAX` (R6). -/
def pscMax : Nat := 255

/-- `PLAYBACK_TIMER` (R7, decision D27; log 7). -/
def playbackTimer : Fin 6 := 0

/-- `LINE_KEY` (R7, decision D11; log 7). -/
def lineKey : Fin 8 := 6

/-- `LINE_TMR(t) = t` (R7, decision D11; log 7). -/
def lineTmr (t : Fin 6) : Fin 8 := ⟨t.val, by omega⟩

/-- `group(t) = t div 2` (R6). -/
def group (t : Fin 6) : Fin 3 := ⟨t.val / 2, by omega⟩

/-- `KM_IDLE`: a row with no key pressed (R8). -/
def kmIdle : Nibble := 0xF#4

/-- `KEY_NONE`, a 5-bit value with bit 4 set (R8, R184; log 7). -/
def keyNone : BitVec 5 := 0x10#5

/-- `KEY_TERM` (R8, decision D32; log 7), as the 5-bit value a scan yields. -/
def keyTerm : BitVec 5 := 0x0F#5

/-- `KM_LUT[line][col]`, OPEN, at its default `4*line + col` (R8, R183; log 7). -/
def kmLut (line col : Fin 4) : Nibble := BitVec.ofNat 4 (4 * line.val + col.val)

/-- `GLYPH_IDLE`, OPEN, at its default (R9; log 7). -/
def glyphIdle : Byte := 0x00#8

/-- `GLYPH_PROMPT`, OPEN, at its default (R9; log 7). -/
def glyphPrompt : Byte := 0x0F#8

/-- `GLYPH_MATCH`, OPEN, at its default (R9; log 7). -/
def glyphMatch : Byte := 0x0A#8

/-- `GLYPH_MISMATCH`, OPEN, at its default (R9; log 7). -/
def glyphMismatch : Byte := 0x0E#8

/-- `PERIOD_TABLE`, OPEN, at its default (R161; log 7). -/
def periodTable : Period → PeriodRow
  | .twoSecs    => { div := .div8, count := 62500#16, cmp := 1#16 }
  | .oneSec     => { div := .div4, count := 62500#16, cmp := 1#16 }
  | .halfSec    => { div := .div2, count := 62500#16, cmp := 1#16 }
  | .quarterSec => { div := .div2, count := 31250#16, cmp := 1#16 }

/-- FREE VALUE: the `n`-th move that no list fixes beforehand (R48, R87, R261; 93_implementation_defined.md U2, U17; log 1).
It has no body, so a theorem about a step that draws from it holds for every interleaving of the agents. -/
opaque freeEvent : Nat → Event

end Config

end Sys2Proof
end

