-- ==== Sys2Proof/Machine/Operands.lean ====
section
/-! DEFINITION. Operand forms: what an operand field names, with its range check (30_encoding.md R92, R93; 60_exceptions.md
R251), the codes of the enumerations, and the parameter tables as the meanings read them. A reader answers `none` exactly
where the command's rule answers `Err(INVALID)`. -/

namespace Sys2Proof.Machine

/-- `valid_line(a)`: `a <= 7` (R137). -/
def lineOf (a : Byte) : Option (Fin 8) :=
  if h : a.toNat < 8 then some ⟨a.toNat, h⟩ else none

/-- `valid_timer(a)`: `a <= 5` (R166). -/
def timerOf (a : Byte) : Option (Fin 6) :=
  if h : a.toNat < 6 then some ⟨a.toNat, h⟩ else none

/-- A prescaler group: `a <= 2` (R151). -/
def groupOf (a : Byte) : Option (Fin 3) :=
  if h : a.toNat < 3 then some ⟨a.toNat, h⟩ else none

/-- A Boolean operand: 0 or 1 (R93). -/
def boolOf : Nat → Option Bool
  | 0 => some false
  | 1 => some true
  | _ => none

/-- A line mode code (R93). -/
def lineModeOf : Nat → Option LineMode
  | 0 => some .irq
  | 1 => some .fiq
  | _ => none

/-- A timer mode code (R93). -/
def timerModeOf : Nat → Option TimerMode
  | 0 => some .oneShot
  | 1 => some .reload
  | _ => none

/-- A divider ratio code (R93). -/
def ratioOf : Nat → Option Ratio
  | 0 => some .div2
  | 1 => some .div4
  | 2 => some .div8
  | 3 => some .div16
  | 4 => some .divx
  | 5 => some .ext4
  | 6 => some .ext5
  | _ => none

/-- A period code (R93). -/
def periodOf : Nat → Option Period
  | 0 => some .twoSecs
  | 1 => some .oneSec
  | 2 => some .halfSec
  | 3 => some .quarterSec
  | _ => none

/-- A capacity: `1 <= a <= RB_SLOTS` (R110). -/
def capacityOf (a : Byte) : Option (BitVec 3) :=
  if 1 ≤ a.toNat ∧ a.toNat ≤ Config.rbSlots then some (a.setWidth 3) else none

/-- A prescaler value: `b <= 255`, then `b[7:0]` (R151). -/
def prescaleOf (b : Half) : Option Byte :=
  if b.toNat ≤ Config.pscMax then some (b.setWidth 8) else none

/-- `ratio_ok(t, r)`, the table of R153. -/
def ratioOk (t : Fin 6) : Ratio → Bool
  | .div2 | .div4 | .div8 | .div16 => true
  | .divx => decide (t.val ≤ 3)
  | .ext4 => decide (t.val = 4)
  | .ext5 => decide (t.val = 5)

/-- A divider operand: the code and then the timer/ratio combination (R102, R152). -/
def dividerOf (t : Fin 6) (b : Half) : Option Ratio :=
  (ratioOf b.toNat).filter (ratioOk t)

/-- The numbers that name a register of the read-back space (R241). -/
def regNumberValid (n : Nat) : Bool :=
  (0x10 ≤ n && n ≤ 0x17) || (0x20 ≤ n && n ≤ 0x24) || (0x30 ≤ n && n ≤ 0x32) || (0x40 ≤ n && n ≤ 0x6F)
    || (0x70 ≤ n && n ≤ 0x74) || (0x80 ≤ n && n ≤ 0x89) || (0x90 ≤ n && n ≤ 0x98)

/-- The 3-bit code of a ratio (R93). -/
def ratioCode : Ratio → BitVec 3
  | .div2 => 0 | .div4 => 1 | .div8 => 2 | .div16 => 3 | .divx => 4 | .ext4 => 5 | .ext5 => 6

/-- The 1-bit code of a timer mode (R93). -/
def timerModeCode : TimerMode → BitVec 1
  | .oneShot => 0 | .reload => 1

/-- The mode bit of a line (R35, R93). -/
def lineModeBit : LineMode → Bool
  | .irq => false | .fiq => true

/-- The row of `PERIOD_TABLE` a meaning writes (R160, R161). -/
def periodRow (p : Period) : PeriodRow := Config.periodTable p

/-- The key code a scan reports for (line, column) (R183). -/
def keyCode (line col : Fin 4) : Nibble := Config.kmLut line col

end Sys2Proof.Machine
end

