-- ==== Sys2Proof/Machine/State.lean ====
section
/-! DEFINITION. The state of the block (10_state.md R20 to R46) and its value after hardware reset (70_reset_and_hazards.md
R290). Registers whose unused codes no rule writes are enumerated types (93_implementation_defined.md U7; log 8). -/

namespace Sys2Proof.Machine

/-- The GameState `gs` (R30). -/
inductive GameState where
  | init | showPassword | guess | showGuess | gameOver
deriving DecidableEq, Repr

/-- The foreground micro-step register `fpc` (R31): `F_IDLE` to `F_GO_CMP`. -/
inductive Fpc where
  | idle | initDisp | guessDisp | capReset | capClear | capArm | capWait | capSize
  | pbWmark | pbClear | pbTarget | pbStart | pbWait | goCmp
deriving DecidableEq, Repr

/-- The handler micro-step register `hpc` (R32): `H_IDLE` to `H_T_EXIT`. -/
inductive Hpc where
  | idle | kSettle1 | kScan | kRelease | kSettle2 | kExit | tBody | tExit
deriving DecidableEq, Repr

/-- The context, a function of `hpc` (R32, R270). -/
inductive Context where
  | fg | key | tmr
deriving DecidableEq, Repr

/-- The playback destination `target` (R26). -/
inductive Target where
  | tNone | tPwd | tGuess
deriving DecidableEq, Repr

/-- A vector-table entry `ic_vec[l]` (R37). -/
inductive VecEntry where
  | vNone | vKey | vTmr
deriving DecidableEq, Repr

/-- The ring buffer's registers (R21). -/
structure RingBuffer where
  /-- `rb_start`: the next write slot. -/
  startIdx : BitVec 2
  /-- `rb_end`: the next read slot. -/
  endIdx : BitVec 2
  /-- `rb_full`. -/
  full : Bool
  /-- `rb_cap`: the capacity in use. -/
  cap : BitVec 3
  /-- `rb_buf[0..3]`. -/
  buf : Vector Byte 4
deriving DecidableEq, Repr

/-- The interrupt controller's registers (R33 to R37). -/
structure IntCtl where
  /-- `ic_irq_en`, `IC_CON` bit 0. -/
  irqEn : Bool
  /-- `ic_fiq_en`, `IC_CON` bit 1. -/
  fiqEn : Bool
  /-- `ic_vectored`, `IC_CON` bit 2. -/
  vectored : Bool
  /-- `IC_MSK`: bit `l` is 1 when line `l` is Masked. -/
  msk : Byte
  /-- `IC_MOD`: bit `l` is 1 when line `l` is FIQ-routed. -/
  mod : Byte
  /-- `IC_PND`: bit `l` is 1 when line `l` is pending. -/
  pnd : Byte
  /-- `IC_VEC`: the handler registered for each line. -/
  vec : Vector VecEntry 8
deriving DecidableEq, Repr

/-- One timer's registers (R39). -/
structure Timer where
  div  : Ratio
  mode : TimerMode
  run  : Bool
  /-- `tm_cntb`: buffered reload count. -/
  cntb : Half
  /-- `tm_cmpb`: buffered compare value. -/
  cmpb : Half
  /-- `tm_rld`: committed reload count. -/
  rld  : Half
  /-- `tm_cmp`: committed compare value. -/
  cmp  : Half
  /-- `tm_cnt`: live down-counter. -/
  cnt  : Half
deriving DecidableEq, Repr

/-- The whole state. The fields after `trace` are the model's own: the host's waiting word (R101; log 3), the result word
of the last step (R46, R94; log 4), and the moves to come (R48; log 1). -/
structure State where
  rb : RingBuffer
  /-- PasswordBuffer (R23). -/
  pwd : Vector Byte 4
  /-- GuessBuffer (R23). -/
  guess : Vector Byte 4
  inputDone : Bool
  showDone : Bool
  showWatermark : Byte
  target : Target
  played : Byte
  termSeen : Bool
  ncap : BitVec 3
  gs : GameState
  fpc : Fpc
  hpc : Hpc
  ic : IntCtl
  /-- `tm_psc[0..2]` (R38). -/
  psc : Vector Byte 3
  /-- Timers 0 to 5 (R39). -/
  tm : Vector Timer 6
  /-- The inputs `km_row[0..3]` (R45). -/
  kmRow : Vector Nibble 4
  /-- The input `key_pin`: true is idle (R45). -/
  keyPin : Bool
  /-- The last value displayed (R46). -/
  disp : Byte
  /-- The display trace, oldest first (R46). -/
  trace : List Byte
  /-- The command word the host presents and that waits to be accepted. -/
  port : Option CommandWord
  /-- The result word output by the last step, if it output one. -/
  res : Option ResultWord
  /-- The moves already fixed, next first. -/
  sched : List Event
  /-- How many free moves have been drawn. -/
  tick : Nat
deriving DecidableEq, Repr

/-- The reasons a step can stop with a fault: none. The block raises no synchronous trap and reports every error as a
result word (R253, R254; log 16), so the type has no constructor and every claim that a step does not fault is sound. -/
inductive Fault where
deriving DecidableEq, Repr

/-- The reasons a step can be refused. -/
inductive Refusal where
  /-- Raised only by an arm of `exec` whose instruction has no meaning yet; no arm raises it. Safe: the model stops. -/
  | notModelled (mnemonic : String)
deriving DecidableEq, Repr

/-- What one step answers. -/
abbrev StepResult := Host.Outcome State Fault Refusal

/-- The ring buffer after hardware reset: as after `RB.INIT 4`, storage zero (R21, R290). -/
def RingBuffer.initial : RingBuffer :=
  { startIdx := 0#2, endIdx := 0#2, full := false, cap := 4#3, buf := #v[0#8, 0#8, 0#8, 0#8] }

/-- The controller after hardware reset: as `IC.RESET` leaves it, nothing pending, nothing registered (R33 to R37, R290). -/
def IntCtl.initial : IntCtl :=
  { irqEn := false, fiqEn := false, vectored := false, msk := 0xFF#8, mod := 0x00#8, pnd := 0x00#8,
    vec := #v[.vNone, .vNone, .vNone, .vNone, .vNone, .vNone, .vNone, .vNone] }

/-- A timer after hardware reset: stopped, `OneShot`, `DIV2`, all counts 0 (R39, R290). -/
def Timer.initial : Timer :=
  { div := .div2, mode := .oneShot, run := false, cntb := 0#16, cmpb := 0#16, rld := 0#16, cmp := 0#16, cnt := 0#16 }

/-- The block right after hardware reset (R290). The inputs have no reset value (R45): idle is the model's choice (log 5).
No word waits, no result is output, no move is fixed (logs 1, 3, 4). -/
def State.reset : State :=
  { rb := RingBuffer.initial
    pwd := #v[0#8, 0#8, 0#8, 0#8]
    guess := #v[0#8, 0#8, 0#8, 0#8]
    inputDone := false
    showDone := false
    showWatermark := 0#8
    target := .tNone
    played := 0#8
    termSeen := false
    ncap := 0#3
    gs := .init
    fpc := .idle
    hpc := .idle
    ic := IntCtl.initial
    psc := #v[0#8, 0#8, 0#8]
    tm := #v[Timer.initial, Timer.initial, Timer.initial, Timer.initial, Timer.initial, Timer.initial]
    kmRow := #v[0xF#4, 0xF#4, 0xF#4, 0xF#4]
    keyPin := true
    disp := 0x00#8
    trace := []
    port := none
    res := none
    sched := []
    tick := 0 }

end Sys2Proof.Machine
end

