-- ==== Sys2Proof/Machine/Flags.lean ====
section
/-! DEFINITION. Flags and the functions computed from them: the ring buffer's emptiness (R22), one bit of a line register
(R34 to R36), deliverable and dispatchable lines (R258, R260), the request outputs (R259), the context (R32). -/

namespace Sys2Proof.Machine

/-- Bit `l` of a line register (R34 to R36). -/
def lineBit (v : Byte) (l : Fin 8) : Bool := v.getLsbD l.val

/-- A line register with bit `l` written (R34 to R36). -/
def setLineBit (v : Byte) (l : Fin 8) (b : Bool) : Byte :=
  if b then v ||| (1#8 <<< l.val) else v &&& ~~~(1#8 <<< l.val)

/-- The buffer is empty when `rb_full = 0` and `rb_start = rb_end` (R22). -/
def RingBuffer.isEmpty (r : RingBuffer) : Bool := !r.full && r.startIdx == r.endIdx

/-- The number of bytes held, on unbounded integers (R116). -/
def RingBuffer.size (r : RingBuffer) : Int :=
  if r.full then r.cap.toNat
  else if r.endIdx.toNat ≤ r.startIdx.toNat then (r.startIdx.toNat : Int) - r.endIdx.toNat
  else (r.startIdx.toNat : Int) - r.endIdx.toNat + r.cap.toNat

/-- Line `l` is deliverable (R258): pending, unmasked, and its class globally enabled. -/
def IntCtl.deliverable (ic : IntCtl) (l : Fin 8) : Bool :=
  lineBit ic.pnd l && !lineBit ic.msk l && (if lineBit ic.mod l then ic.fiqEn else ic.irqEn)

/-- Line `l` is dispatchable (R260): deliverable, IRQ-routed, vectored, with a registered handler. Any other deliverable
line starts no handler of this block (R267; log 19). -/
def IntCtl.dispatchable (ic : IntCtl) (l : Fin 8) : Bool :=
  ic.deliverable l && !lineBit ic.mod l && ic.vectored && ic.vec[l.val] != .vNone

/-- The eight lines. -/
def allLines : List (Fin 8) := [0, 1, 2, 3, 4, 5, 6, 7]

/-- The request output `irq_out` (R259). -/
def IntCtl.irqOut (ic : IntCtl) : Bool := allLines.any fun l => ic.deliverable l && !lineBit ic.mod l

/-- The request output `fiq_out` (R259). -/
def IntCtl.fiqOut (ic : IntCtl) : Bool := allLines.any fun l => ic.deliverable l && lineBit ic.mod l

/-- The context as a function of `hpc` (R32). -/
def contextOf : Hpc → Context
  | .idle => .fg
  | .kSettle1 | .kScan | .kRelease | .kSettle2 | .kExit => .key
  | .tBody | .tExit => .tmr

end Sys2Proof.Machine
end

