-- ==== Sys2Proof/Machine/Ops.lean ====
section
/-! DEFINITION. The shared operations: the byte spaces (20_memory.md R70 to R72), the display (10_state.md R46), result words
(30_encoding.md R94, 60_exceptions.md R250), named updates of the state, and taking and leaving an interrupt (60_exceptions.md
R262, R264). -/

namespace Sys2Proof.Machine

/-- The three byte spaces that are state (R70). `KM` is an input, `REG` and `VEC` are views. -/
inductive Space where
  | buf | pwd | guess
deriving DecidableEq, Repr

/-- `MemRead(SPACE, i, 1)` (R12, R71, R72). -/
def memRead (sp : Space) (i : Fin 4) (s : State) : Byte :=
  match sp with
  | .buf => s.rb.buf[i.val]
  | .pwd => s.pwd[i.val]
  | .guess => s.guess[i.val]

/-- `MemWrite(SPACE, i, 1, v)` (R12, R71, R72). -/
def memWrite (sp : Space) (i : Fin 4) (v : Byte) (s : State) : State :=
  match sp with
  | .buf => { s with rb := { s.rb with buf := s.rb.buf.set i.val v } }
  | .pwd => { s with pwd := s.pwd.set i.val v }
  | .guess => { s with guess := s.guess.set i.val v }

/-- `MemWrite` at an offset that may lie beyond the four elements: such a store is dropped (R72). -/
def memWriteAt (sp : Space) (off : Byte) (v : Byte) (s : State) : State :=
  if h : off.toNat < 4 then memWrite sp ⟨off.toNat, h⟩ v s else s

/-- `emit Display(v)` (R12, R46). -/
def State.emitDisplay (s : State) (v : Byte) : State := { s with disp := v, trace := s.trace ++ [v] }

/-- The step outputs the result word `r` (R46, R94; log 4). -/
def State.withRes (s : State) (r : ResultWord) : State := { s with res := some r }

/-- The ring buffer's registers replaced. -/
def State.withRb (s : State) (r : RingBuffer) : State := { s with rb := r }

/-- The controller's registers replaced. -/
def State.withIc (s : State) (ic : IntCtl) : State := { s with ic := ic }

/-- Timer `t`'s registers replaced. -/
def State.withTimer (s : State) (t : Fin 6) (x : Timer) : State := { s with tm := s.tm.set t.val x }

/-- The foreground's position replaced. -/
def State.withFpc (s : State) (p : Fpc) : State := { s with fpc := p }

/-- The handler's position replaced. -/
def State.withHpc (s : State) (p : Hpc) : State := { s with hpc := p }

/-- The three error classes of R250. -/
inductive CmdError where
  /-- An operand outside its range. -/
  | invalid
  /-- Reading an empty ring buffer. -/
  | empty
  /-- A command word that decodes to no command. -/
  | illegal
deriving DecidableEq, Repr

/-- The error's result word: -1, -2, -3 (R94, R250). -/
def errorWord : CmdError → ResultWord
  | .invalid => 0xFFFFFFFF#32
  | .empty => 0xFFFFFFFE#32
  | .illegal => 0xFFFFFFFD#32

/-- `return Ok(v)`: the command ends with result word `v` (R12, R94). -/
def done (v : ResultWord) (s : State) : StepResult := .next (s.withRes v)

/-- `return Err(E)`: the command ends with the error's word and no state written (R12, R250). -/
def failed (e : CmdError) (s : State) : StepResult := .next (s.withRes (errorWord e))

/-- The pending bit of line `l` is set: what every source event does (R256). -/
def setPending (l : Fin 8) (s : State) : State := s.withIc { s.ic with pnd := setLineBit s.ic.pnd l true }

/-- `acknowledge(line)`: the pending bit is cleared (R136, R257). -/
def clearPending (l : Fin 8) (s : State) : State := s.withIc { s.ic with pnd := setLineBit s.ic.pnd l false }

/-- TAKING AN INTERRUPT: the dispatch to the handler a vector-table entry names (R262). Nothing is saved: `fpc`, the
masks, the enables and the pending bit are unchanged (R263). -/
def takeInterrupt (v : VecEntry) (s : State) : State :=
  match v with
  | .vKey => { s with hpc := .kSettle1, termSeen := false }
  | .vTmr => { s with hpc := .tBody }
  | .vNone => s

/-- RETURNING FROM AN INTERRUPT: acknowledge the line, then the handler sequencer is idle (R264). -/
def returnFromInterrupt (l : Fin 8) (s : State) : State := (clearPending l s).withHpc .idle

end Sys2Proof.Machine
end

