-- ==== Sys2Proof/Machine/IntCtl.lean ====
section
/-! DEFINITION. The interrupt controller family (41_interrupt_controller.md). -/

namespace Sys2Proof.Machine

/-- `IC.reset` (R130): modes, masks, dispatch and enables; pending bits and vectors are not written. -/
def icReset (s : State) : State :=
  s.withIc { s.ic with mod := 0x00#8, msk := 0xFF#8, vectored := false, irqEn := false, fiqEn := false }

/-- `IC.cfg_global` (R131). -/
def icCfgGlobal (irq vectored : Bool) (s : State) : State :=
  s.withIc { s.ic with irqEn := irq, vectored := vectored }

/-- `IC.cfg_fiq` (R132). -/
def icCfgFiq (fiq : Bool) (s : State) : State := s.withIc { s.ic with fiqEn := fiq }

/-- `IC.set_line_mode` (R133). -/
def icSetMode (l : Fin 8) (m : LineMode) (s : State) : State :=
  s.withIc { s.ic with mod := setLineBit s.ic.mod l (lineModeBit m) }

/-- `IC.enable` (R134): the line becomes Unmasked. -/
def icEnable (l : Fin 8) (s : State) : State := s.withIc { s.ic with msk := setLineBit s.ic.msk l false }

/-- `IC.disable` (R135): the line becomes Masked. -/
def icDisable (l : Fin 8) (s : State) : State := s.withIc { s.ic with msk := setLineBit s.ic.msk l true }

/-- A handler registered for a line: done by `FSM.SETUP` only (R37, R138). -/
def icRegister (l : Fin 8) (v : VecEntry) (s : State) : State :=
  s.withIc { s.ic with vec := s.ic.vec.set l.val v }

/-- `IC.RESET` (R130). -/
def execIcReset (s : State) : StepResult := done 0 (icReset s)

/-- `IC.CFG_GLOBAL` (R131). -/
def execIcCfgGlobal (a : Byte) (b : Half) (s : State) : StepResult :=
  match boolOf a.toNat, boolOf b.toNat with
  | some irq, some vectored => done 0 (icCfgGlobal irq vectored s)
  | _, _ => failed .invalid s

/-- `IC.CFG_FIQ` (R132). -/
def execIcCfgFiq (a : Byte) (s : State) : StepResult :=
  match boolOf a.toNat with
  | some fiq => done 0 (icCfgFiq fiq s)
  | none => failed .invalid s

/-- `IC.SET_MODE` (R133). -/
def execIcSetMode (a : Byte) (b : Half) (s : State) : StepResult :=
  match lineOf a, lineModeOf b.toNat with
  | some l, some m => done 0 (icSetMode l m s)
  | _, _ => failed .invalid s

/-- `IC.ENABLE` (R134). -/
def execIcEnable (a : Byte) (s : State) : StepResult :=
  match lineOf a with
  | some l => done 0 (icEnable l s)
  | none => failed .invalid s

/-- `IC.DISABLE` (R135). -/
def execIcDisable (a : Byte) (s : State) : StepResult :=
  match lineOf a with
  | some l => done 0 (icDisable l s)
  | none => failed .invalid s

/-- `IC.ACK` (R136). -/
def execIcAck (a : Byte) (s : State) : StepResult :=
  match lineOf a with
  | some l => done 0 (clearPending l s)
  | none => failed .invalid s

end Sys2Proof.Machine
end

