-- ==== Sys2Proof/Machine/RegRead.lean ====
section
/-! DEFINITION. Register read-back (46_register_read.md): the space `REG` (20_memory.md R74), the map of 10_state.md R47. A
register is read zero-extended; a read has no side effect. -/

namespace Sys2Proof.Machine

/-- A flag as a register value. -/
def flagCode (b : Bool) : Half := if b then 1#16 else 0#16

/-- The code of `gs` (R30). -/
def gameCode : GameState → BitVec 3
  | .init => 0 | .showPassword => 1 | .guess => 2 | .showGuess => 3 | .gameOver => 4

/-- The code of `fpc` (R31). -/
def fpcCode : Fpc → BitVec 4
  | .idle => 0 | .initDisp => 1 | .guessDisp => 2 | .capReset => 3 | .capClear => 4 | .capArm => 5 | .capWait => 6
  | .capSize => 7 | .pbWmark => 8 | .pbClear => 9 | .pbTarget => 10 | .pbStart => 11 | .pbWait => 12 | .goCmp => 13

/-- The code of `hpc` (R32). -/
def hpcCode : Hpc → BitVec 3
  | .idle => 0 | .kSettle1 => 1 | .kScan => 2 | .kRelease => 3 | .kSettle2 => 4 | .kExit => 5 | .tBody => 6 | .tExit => 7

/-- The code of `target` (R26). -/
def targetCode : Target → BitVec 2
  | .tNone => 0 | .tPwd => 1 | .tGuess => 2

/-- The code of a vector-table entry (R37, R98). -/
def vecCode : VecEntry → VectorId
  | .vNone => 0b00 | .vKey => 0b01 | .vTmr => 0b10

/-- `IC_CON` (R33). -/
def conCode (ic : IntCtl) : BitVec 3 :=
  BitVec.ofBool ic.vectored ++ BitVec.ofBool ic.fiqEn ++ BitVec.ofBool ic.irqEn

/-- `IC_VEC`: bits `[2l+1:2l]` are `ic_vec[l]` (R37). -/
def vecWord (ic : IntCtl) : Half :=
  vecCode ic.vec[7] ++ vecCode ic.vec[6] ++ vecCode ic.vec[5] ++ vecCode ic.vec[4]
    ++ vecCode ic.vec[3] ++ vecCode ic.vec[2] ++ vecCode ic.vec[1] ++ vecCode ic.vec[0]

/-- Registers 0x10 to 0x17 (R21), by offset. -/
def readRb (r : RingBuffer) (k : Nat) : Option Half :=
  match k with
  | 0 => some (r.startIdx.setWidth 16)
  | 1 => some (r.endIdx.setWidth 16)
  | 2 => some (flagCode r.full)
  | 3 => some (r.cap.setWidth 16)
  | k + 4 => r.buf[k]?.map (·.setWidth 16)

/-- Registers 0x20 to 0x24 (R33 to R37), by offset. -/
def readIc (ic : IntCtl) (k : Nat) : Option Half :=
  match k with
  | 0 => some ((conCode ic).setWidth 16)
  | 1 => some (ic.msk.setWidth 16)
  | 2 => some (ic.mod.setWidth 16)
  | 3 => some (ic.pnd.setWidth 16)
  | 4 => some (vecWord ic)
  | _ => none

/-- Register `k` of one timer (R39). -/
def readTimer (x : Timer) (k : Nat) : Option Half :=
  match k with
  | 0 => some ((ratioCode x.div).setWidth 16)
  | 1 => some ((timerModeCode x.mode).setWidth 16)
  | 2 => some (flagCode x.run)
  | 3 => some x.cntb
  | 4 => some x.cmpb
  | 5 => some x.rld
  | 6 => some x.cmp
  | 7 => some x.cnt
  | _ => none

/-- Registers 0x70 to 0x74: the input samples (R45), by offset. -/
def readInput (s : State) (k : Nat) : Option Half :=
  if k = 4 then some (flagCode s.keyPin) else s.kmRow[k]?.map (·.setWidth 16)

/-- Registers 0x80 to 0x89 (R24 to R32), by offset. -/
def readFlag (s : State) (k : Nat) : Option Half :=
  match k with
  | 0 => some (flagCode s.inputDone)
  | 1 => some (flagCode s.showDone)
  | 2 => some (s.showWatermark.setWidth 16)
  | 3 => some ((targetCode s.target).setWidth 16)
  | 4 => some (s.played.setWidth 16)
  | 5 => some (flagCode s.termSeen)
  | 6 => some (s.ncap.setWidth 16)
  | 7 => some ((gameCode s.gs).setWidth 16)
  | 8 => some ((fpcCode s.fpc).setWidth 16)
  | 9 => some ((hpcCode s.hpc).setWidth 16)
  | _ => none

/-- Registers 0x90 to 0x98 (R23, R46), by offset. -/
def readResult (s : State) (k : Nat) : Option Half :=
  if k < 4 then s.pwd[k]?.map (·.setWidth 16)
  else if k < 8 then s.guess[k - 4]?.map (·.setWidth 16)
  else if k = 8 then some (s.disp.setWidth 16)
  else none

/-- `REG[n]`, the map of R47; `none` where `n` names no register. -/
def readReg (s : State) (n : Nat) : Option Half :=
  if n < 0x10 then none
  else if n < 0x20 then readRb s.rb (n - 0x10)
  else if n < 0x30 then readIc s.ic (n - 0x20)
  else if n < 0x40 then s.psc[n - 0x30]?.map (·.setWidth 16)
  else if n < 0x70 then s.tm[(n - 0x40) / 8]?.bind fun x => readTimer x ((n - 0x40) % 8)
  else if n < 0x80 then readInput s (n - 0x70)
  else if n < 0x90 then readFlag s (n - 0x80)
  else readResult s (n - 0x90)

/-- `SYS.REGRD` (R240). -/
def execSysRegrd (a : Byte) (s : State) : StepResult :=
  match readReg s a.toNat with
  | some v => done (v.setWidth 32) s
  | none => failed .invalid s

end Sys2Proof.Machine
end

