-- ==== Sys2Proof/Machine/RingBuf.lean ====
section
/-! DEFINITION. The ring buffer family (40_ring_buffer.md). The operations on the registers are shared by the commands, the
foreground micro-steps and the handlers (R103, R121). -/

namespace Sys2Proof.Machine

/-- `inc(p) = (p + 1) mod rb_cap` (R120); at a capacity of 0, which no run reaches, log 17. -/
def RingBuffer.inc (r : RingBuffer) (p : BitVec 2) : BitVec 2 := BitVec.ofNat 2 ((p.toNat + 1) % r.cap.toNat)

/-- A 2-bit index as an element number of the space `BUF` (R71). -/
def slot (p : BitVec 2) : Fin 4 := ⟨p.toNat, p.isLt⟩

/-- `RB.init` (R110). -/
def RingBuffer.init (r : RingBuffer) (cap : BitVec 3) : RingBuffer :=
  { r with cap := cap, startIdx := 0#2, endIdx := 0#2, full := false }

/-- `RB.reset` (R111). -/
def RingBuffer.reset (r : RingBuffer) : RingBuffer := { r with startIdx := 0#2, endIdx := 0#2, full := false }

/-- `RB.put` (R112): all reads are of the registers before the step. -/
def RingBuffer.put (r : RingBuffer) (v : Byte) : RingBuffer :=
  let buf := r.buf.set (slot r.startIdx).val v
  let s1 := r.inc r.startIdx
  if r.full then { r with buf := buf, startIdx := s1, endIdx := r.inc r.endIdx }
  else { r with buf := buf, startIdx := s1, full := s1 == r.endIdx }

/-- `RB.get` (R113): `none` on an empty buffer, else the byte and the registers after. -/
def RingBuffer.get (r : RingBuffer) : Option (Byte × RingBuffer) :=
  if r.isEmpty then none
  else some (r.buf[(slot r.endIdx).val], { r with endIdx := r.inc r.endIdx, full := false })

/-- The contents in read order, as R118 defines them. -/
def RingBuffer.contents (r : RingBuffer) : List Byte :=
  (List.range r.size.toNat).map fun k => r.buf[(slot (BitVec.ofNat 2 ((r.endIdx.toNat + k) % r.cap.toNat))).val]

/-- `RB.INIT` (R110). -/
def execRbInit (a : Byte) (s : State) : StepResult :=
  match capacityOf a with
  | some cap => done 0 (s.withRb (s.rb.init cap))
  | none => failed .invalid s

/-- `RB.RESET` (R111). -/
def execRbReset (s : State) : StepResult := done 0 (s.withRb s.rb.reset)

/-- `RB.PUT` (R112). -/
def execRbPut (a : Byte) (s : State) : StepResult := done 0 (s.withRb (s.rb.put a))

/-- `RB.GET` (R113). -/
def execRbGet (s : State) : StepResult :=
  match s.rb.get with
  | some (v, r) => done (v.setWidth 32) (s.withRb r)
  | none => failed .empty s

/-- `RB.IS_EMPTY` (R114). -/
def execRbIsEmpty (s : State) : StepResult := done (if s.rb.isEmpty then 1 else 0) s

/-- `RB.IS_FULL` (R115). -/
def execRbIsFull (s : State) : StepResult := done (if s.rb.full then 1 else 0) s

/-- `RB.SIZE` (R116). -/
def execRbSize (s : State) : StepResult := done (BitVec.ofInt 32 s.rb.size) s

/-- `RB.CAPACITY` (R117). -/
def execRbCapacity (s : State) : StepResult := done (s.rb.cap.setWidth 32) s

end Sys2Proof.Machine
end

