-- ==== Sys2Proof/Machine/TimerUnit.lean ====
section
/-! DEFINITION. The timer family (42_timer.md): the commands, the count pulse and the expiry. The compare registers are
stored and committed and have no other effect (R164); no rule of state change reads a prescaler or a divider (R38, R152). -/

namespace Sys2Proof.Machine

/-- `TM.set_prescaler` (R151). -/
def tmSetPrescaler (g : Fin 3) (v : Byte) (s : State) : State := { s with psc := s.psc.set g.val v }

/-- `TM.set_divider` (R152). -/
def tmSetDivider (t : Fin 6) (r : Ratio) (s : State) : State := s.withTimer t { s.tm[t.val] with div := r }

/-- `TM.set_count` (R154): the buffered registers only. -/
def tmSetCount (t : Fin 6) (count cmp : Half) (s : State) : State :=
  s.withTimer t { s.tm[t.val] with cntb := count, cmpb := cmp }

/-- `TM.set_mode` (R155). -/
def tmSetMode (t : Fin 6) (m : TimerMode) (s : State) : State := s.withTimer t { s.tm[t.val] with mode := m }

/-- `TM.commit` (R156): the buffered registers become the committed and the live ones. -/
def tmCommit (t : Fin 6) (s : State) : State :=
  s.withTimer t
    { s.tm[t.val] with rld := s.tm[t.val].cntb, cmp := s.tm[t.val].cmpb, cnt := s.tm[t.val].cntb }

/-- `TM.start` (R157): the counter is not loaded. -/
def tmStart (t : Fin 6) (s : State) : State := s.withTimer t { s.tm[t.val] with run := true }

/-- `TM.stop` (R158). -/
def tmStop (t : Fin 6) (s : State) : State := s.withTimer t { s.tm[t.val] with run := false }

/-- `TM.cfg_period` (R160): the sequence of five operations, in one step. -/
def tmCfgPeriod (t : Fin 6) (p : Period) (m : TimerMode) (s : State) : State :=
  tmCommit t (tmSetMode t m (tmSetCount t (periodRow p).count (periodRow p).cmp
    (tmSetDivider t (periodRow p).div (tmSetPrescaler (Config.group t) 0xFF#8 s))))

/-- `Expire(t)` (R163): the timer's line becomes pending; a `Reload` timer reloads, a `OneShot` timer stops. -/
def expire (t : Fin 6) (s : State) : State :=
  (setPending (Config.lineTmr t) s).withTimer t
    (match s.tm[t.val].mode with
     | .reload => { s.tm[t.val] with cnt := s.tm[t.val].rld }
     | .oneShot => { s.tm[t.val] with cnt := 0#16, run := false })

/-- `Pulse(t)` (R162): enabled only while the timer runs. -/
def pulse (t : Fin 6) (s : State) : State :=
  if s.tm[t.val].run then
    let c1 : Half := if s.tm[t.val].cnt = 0#16 then 0#16 else s.tm[t.val].cnt - 1#16
    if c1 = 0#16 then expire t s else s.withTimer t { s.tm[t.val] with cnt := c1 }
  else s

/-- `TM.SET_PRESCALER` (R151). -/
def execTmSetPrescaler (a : Byte) (b : Half) (s : State) : StepResult :=
  match groupOf a, prescaleOf b with
  | some g, some v => done 0 (tmSetPrescaler g v s)
  | _, _ => failed .invalid s

/-- `TM.SET_DIVIDER` (R152, R153). -/
def execTmSetDivider (a : Byte) (b : Half) (s : State) : StepResult :=
  match timerOf a with
  | some t =>
    match dividerOf t b with
    | some r => done 0 (tmSetDivider t r s)
    | none => failed .invalid s
  | none => failed .invalid s

/-- `TM.SET_COUNT` (R154). -/
def execTmSetCount (a : Byte) (b c : Half) (s : State) : StepResult :=
  match timerOf a with
  | some t => done 0 (tmSetCount t b c s)
  | none => failed .invalid s

/-- `TM.SET_MODE` (R155). -/
def execTmSetMode (a : Byte) (b : Half) (s : State) : StepResult :=
  match timerOf a, timerModeOf b.toNat with
  | some t, some m => done 0 (tmSetMode t m s)
  | _, _ => failed .invalid s

/-- `TM.COMMIT` (R156). -/
def execTmCommit (a : Byte) (s : State) : StepResult :=
  match timerOf a with
  | some t => done 0 (tmCommit t s)
  | none => failed .invalid s

/-- `TM.START` (R157). -/
def execTmStart (a : Byte) (s : State) : StepResult :=
  match timerOf a with
  | some t => done 0 (tmStart t s)
  | none => failed .invalid s

/-- `TM.STOP` (R158). -/
def execTmStop (a : Byte) (s : State) : StepResult :=
  match timerOf a with
  | some t => done 0 (tmStop t s)
  | none => failed .invalid s

/-- `TM.IS_RUNNING` (R159). -/
def execTmIsRunning (a : Byte) (s : State) : StepResult :=
  match timerOf a with
  | some t => done (if s.tm[t.val].run then 1 else 0) s
  | none => failed .invalid s

/-- `TM.CFG_PERIOD` (R160): all operands are checked before anything is written. -/
def execTmCfgPeriod (a : Byte) (b c : Half) (s : State) : StepResult :=
  match timerOf a, periodOf b.toNat, timerModeOf c.toNat with
  | some t, some p, some m => done 0 (tmCfgPeriod t p m s)
  | _, _, _ => failed .invalid s

end Sys2Proof.Machine
end

