-- ==== Sys2Proof/Machine/Fsm.lean ====
section
/-! DEFINITION. The game orchestrator (44_game_fsm.md): `FSM.SETUP`, one atomic step, and `FSM.LOOP`, a sequence of
micro-steps at `fpc`. `execFsmLoop` performs the one atomic step at which `fpc` stands (log 11): acceptance at `F_IDLE`, else
the micro-step `fpc` names. A wait whose condition is false is a poll that changes nothing (R199, R205). -/

namespace Sys2Proof.Machine

/-- The shared state zeroed by `FSM.SETUP`, items 3 to 6 of R190. -/
def zeroShared (s : State) : State :=
  { s with
    rb := { s.rb with buf := #v[0#8, 0#8, 0#8, 0#8] }
    pwd := #v[0#8, 0#8, 0#8, 0#8]
    guess := #v[0#8, 0#8, 0#8, 0#8]
    inputDone := false
    showDone := false
    showWatermark := 0#8
    target := .tNone
    played := 0#8
    termSeen := false
    ncap := 0#3
    gs := .init }

/-- Items 1 to 7 of R190: controller reset, ring buffer, shared state, the playback timer's period. -/
def setupState (s : State) : State :=
  let s := icReset s
  let s := zeroShared (s.withRb (s.rb.init 4#3))
  tmCfgPeriod Config.playbackTimer .oneSec .reload s

/-- Items 8 to 12 of R190: vectors, routing, FIQ off, line masks, global enable last. -/
def setupInterrupts (s : State) : State :=
  let tmr := Config.lineTmr Config.playbackTimer
  let s := icRegister Config.lineKey .vKey (icRegister tmr .vTmr s)
  let s := icSetMode Config.lineKey .irq (icSetMode tmr .irq s)
  let s := icDisable Config.lineKey (icEnable tmr (icCfgFiq false s))
  icCfgGlobal true true s

/-- `FSM.SETUP` (R190). -/
def execFsmSetup (s : State) : StepResult := done 0 (setupInterrupts (setupState s))

/-- The end of a `FSM.LOOP`: the new `gs`, the port ready, the result word (R191, R192). -/
def finishLoop (g : GameState) (s : State) : State :=
  { s with gs := g, fpc := .idle, res := some ((gameCode g).setWidth 32) }

/-- Acceptance of `FSM.LOOP` (R191): only `fpc` is written, by `gs`. -/
def loopAccept (s : State) : State :=
  s.withFpc (match s.gs with
    | .init => .initDisp
    | .showPassword => .pbWmark
    | .guess => .guessDisp
    | .showGuess => .pbWmark
    | .gameOver => .goCmp)

/-- `F_INIT_DISP` (R193). -/
def stepInitDisp (s : State) : State := (s.emitDisplay Config.glyphIdle).withFpc .capReset

/-- `F_GUESS_DISP` (R194). -/
def stepGuessDisp (s : State) : State := (s.emitDisplay Config.glyphPrompt).withFpc .capReset

/-- `F_CAP_RESET` (R196). -/
def stepCapReset (s : State) : State := (s.withRb s.rb.reset).withFpc .capClear

/-- `F_CAP_CLEAR` (R197). -/
def stepCapClear (s : State) : State := { s with inputDone := false, fpc := .capArm }

/-- `F_CAP_ARM` (R198). -/
def stepCapArm (s : State) : State := (icEnable Config.lineKey s).withFpc .capWait

/-- `F_CAP_WAIT` (R199). -/
def stepCapWait (s : State) : State := if s.inputDone then s.withFpc .capSize else s

/-- `F_CAP_SIZE` (R200). -/
def stepCapSize (s : State) : State :=
  let n := s.rb.size
  let s := { s with ncap := BitVec.ofInt 3 n }
  if (Config.pwLen : Int) ≤ n then finishLoop (if s.gs = .init then .showPassword else .showGuess) s
  else s.withFpc .capReset

/-- `F_PB_WMARK` (R201). -/
def stepPbWmark (s : State) : State := { s with showWatermark := s.rb.cap.setWidth 8, fpc := .pbClear }

/-- `F_PB_CLEAR` (R202). -/
def stepPbClear (s : State) : State := { s with showDone := false, fpc := .pbTarget }

/-- `F_PB_TARGET` (R203). -/
def stepPbTarget (s : State) : State :=
  { s with target := if s.gs = .showPassword then .tPwd else .tGuess, fpc := .pbStart }

/-- `F_PB_START` (R204). -/
def stepPbStart (s : State) : State := (tmStart Config.playbackTimer s).withFpc .pbWait

/-- `F_PB_WAIT` (R205). -/
def stepPbWait (s : State) : State :=
  if s.showDone then finishLoop (if s.gs = .showPassword then .guess else .gameOver) s else s

/-- `F_GO_CMP` (R206). -/
def stepGoCmp (s : State) : State :=
  if s.pwd[0] = s.guess[0] ∧ s.pwd[1] = s.guess[1] ∧ s.pwd[2] = s.guess[2] ∧ s.pwd[3] = s.guess[3] then
    finishLoop .init (s.emitDisplay Config.glyphMatch)
  else finishLoop .guess (s.emitDisplay Config.glyphMismatch)

/-- The one atomic step of `FSM.LOOP` at which `fpc` stands. -/
def loopStep (s : State) : State :=
  match s.fpc with
  | .idle => loopAccept s
  | .initDisp => stepInitDisp s
  | .guessDisp => stepGuessDisp s
  | .capReset => stepCapReset s
  | .capClear => stepCapClear s
  | .capArm => stepCapArm s
  | .capWait => stepCapWait s
  | .capSize => stepCapSize s
  | .pbWmark => stepPbWmark s
  | .pbClear => stepPbClear s
  | .pbTarget => stepPbTarget s
  | .pbStart => stepPbStart s
  | .pbWait => stepPbWait s
  | .goCmp => stepGoCmp s

/-- `FSM.LOOP` (R191 to R206). -/
def execFsmLoop (s : State) : StepResult := .next (loopStep s)

end Sys2Proof.Machine
end

