-- ==== Sys2Proof/Machine/KeyMatrix.lean ====
section
/-! DEFINITION. The key-matrix decoder (43_key_matrix.md): one scan, no memory, no debouncing (R186). -/

namespace Sys2Proof.Machine

/-- `column(n)`: the lowest column whose bit is 0 (R182). Used on active rows only; an idle row has none. -/
def column (n : Nibble) : Fin 4 :=
  if n.getLsbD 0 = false then 0
  else if n.getLsbD 1 = false then 1
  else if n.getLsbD 2 = false then 2
  else 3

/-- The scan of the lines given, in order, stopping at the first active one (R180, R181, R185). -/
def scanLines (rows : Vector Nibble 4) : List (Fin 4) → BitVec 5
  | [] => Config.keyNone
  | i :: rest =>
    if rows[i.val] = Config.kmIdle then scanLines rows rest
    else (keyCode i (column rows[i.val])).setWidth 5

/-- `KM.scan` (R180, R184): a key code 0..15, or `KEY_NONE`. -/
def kmScan (rows : Vector Nibble 4) : BitVec 5 := scanLines rows [0, 1, 2, 3]

/-- `KM.SCAN` (R180). -/
def execKmScan (s : State) : StepResult := done ((kmScan s.kmRow).setWidth 32) s

end Sys2Proof.Machine
end

