-- ==== Sys2Proof/Machine/Handlers.lean ====
section
/-! DEFINITION. The event handlers (45_event_handlers.md). `execKeyIsr` and `execTimerIsr` perform the one atomic step at
which `hpc` stands (log 11): the entry that delivery makes at `H_IDLE`, else the micro-step `hpc` names. While the other
handler is active neither does anything (R266; log 13). -/

namespace Sys2Proof.Machine

/-- `H_K_SETTLE1` (R221). -/
def stepKSettle1 (s : State) : State := s.withHpc .kScan

/-- `H_K_SCAN` (R222). -/
def stepKScan (s : State) : State :=
  let k := kmScan s.kmRow
  if k = Config.keyTerm then { s with inputDone := true, termSeen := true, hpc := .kRelease }
  else if k = Config.keyNone then s.withHpc .kRelease
  else (s.withRb (s.rb.put (k.setWidth 8))).withHpc .kRelease

/-- `H_K_RELEASE` (R223): a poll of `key_pin`. -/
def stepKRelease (s : State) : State := if s.keyPin then s.withHpc .kSettle2 else s

/-- `H_K_SETTLE2` (R224). -/
def stepKSettle2 (s : State) : State := s.withHpc .kExit

/-- `H_K_EXIT` (R225): disable if the terminator was seen, then acknowledge, as the last action. -/
def stepKExit (s : State) : State :=
  let s1 := if s.termSeen then icDisable Config.lineKey s else s
  returnFromInterrupt Config.lineKey { s1 with termSeen := false }

/-- The store of a played byte at offset `played` into the buffer `target` selects (R228, R72). -/
def storePlayed (v : Byte) (s : State) : State :=
  match s.target with
  | .tPwd => memWriteAt .pwd s.played v s
  | .tGuess => memWriteAt .guess s.played v s
  | .tNone => s

/-- The playback branch of `H_T_BODY` (R228): pop, store, display, advance; on an empty buffer only advance. -/
def playByte (s : State) : State :=
  let s1 := match s.rb.get with
    | some (v, r) => (storePlayed v (s.withRb r)).emitDisplay v
    | none => s
  { s1 with played := s.played + 1#8 }

/-- `H_T_BODY` (R228). -/
def stepTBody (s : State) : State :=
  (if s.played = s.showWatermark then
    { tmStop Config.playbackTimer s with played := 0#8, showDone := true }
  else playByte s).withHpc .tExit

/-- `H_T_EXIT` (R229). -/
def stepTExit (s : State) : State := returnFromInterrupt (Config.lineTmr Config.playbackTimer) s

/-- The one atomic step of `key_isr` at which `hpc` stands (R220 to R225, R262). -/
def keyStep (s : State) : State :=
  match s.hpc with
  | .idle => takeInterrupt .vKey s
  | .kSettle1 => stepKSettle1 s
  | .kScan => stepKScan s
  | .kRelease => stepKRelease s
  | .kSettle2 => stepKSettle2 s
  | .kExit => stepKExit s
  | .tBody => s
  | .tExit => s

/-- The one atomic step of `timer_isr` at which `hpc` stands (R226 to R229, R262). -/
def timerStep (s : State) : State :=
  match s.hpc with
  | .idle => takeInterrupt .vTmr s
  | .tBody => stepTBody s
  | .tExit => stepTExit s
  | .kSettle1 => s
  | .kScan => s
  | .kRelease => s
  | .kSettle2 => s
  | .kExit => s

/-- `KEY_ISR` (R220). -/
def execKeyIsr (s : State) : StepResult := .next (keyStep s)

/-- `TIMER_ISR` (R226). -/
def execTimerIsr (s : State) : StepResult := .next (timerStep s)

end Sys2Proof.Machine
end

