-- ==== Sys2Proof/Machine/Dispatch.lean ====
section
/-! DEFINITION. The dispatch: one arm per constructor, each one direct call of its meaning. -/

namespace Sys2Proof.Machine

def exec (i : Instr) (s : State) : Host.Outcome State Fault Refusal :=
  match i with
  | .sysRegrd a => Sys2Proof.Machine.execSysRegrd a s
  | .rbInit a => Sys2Proof.Machine.execRbInit a s
  | .rbReset => Sys2Proof.Machine.execRbReset s
  | .rbPut a => Sys2Proof.Machine.execRbPut a s
  | .rbGet => Sys2Proof.Machine.execRbGet s
  | .rbIsEmpty => Sys2Proof.Machine.execRbIsEmpty s
  | .rbIsFull => Sys2Proof.Machine.execRbIsFull s
  | .rbSize => Sys2Proof.Machine.execRbSize s
  | .rbCapacity => Sys2Proof.Machine.execRbCapacity s
  | .icReset => Sys2Proof.Machine.execIcReset s
  | .icCfgGlobal a b => Sys2Proof.Machine.execIcCfgGlobal a b s
  | .icCfgFiq a => Sys2Proof.Machine.execIcCfgFiq a s
  | .icSetMode a b => Sys2Proof.Machine.execIcSetMode a b s
  | .icEnable a => Sys2Proof.Machine.execIcEnable a s
  | .icDisable a => Sys2Proof.Machine.execIcDisable a s
  | .icAck a => Sys2Proof.Machine.execIcAck a s
  | .tmSetPrescaler a b => Sys2Proof.Machine.execTmSetPrescaler a b s
  | .tmSetDivider a b => Sys2Proof.Machine.execTmSetDivider a b s
  | .tmSetCount a b c => Sys2Proof.Machine.execTmSetCount a b c s
  | .tmSetMode a b => Sys2Proof.Machine.execTmSetMode a b s
  | .tmCommit a => Sys2Proof.Machine.execTmCommit a s
  | .tmStart a => Sys2Proof.Machine.execTmStart a s
  | .tmStop a => Sys2Proof.Machine.execTmStop a s
  | .tmIsRunning a => Sys2Proof.Machine.execTmIsRunning a s
  | .tmCfgPeriod a b c => Sys2Proof.Machine.execTmCfgPeriod a b c s
  | .kmScan => Sys2Proof.Machine.execKmScan s
  | .fsmSetup => Sys2Proof.Machine.execFsmSetup s
  | .fsmLoop => Sys2Proof.Machine.execFsmLoop s
  | .keyIsr => Sys2Proof.Machine.execKeyIsr s
  | .timerIsr => Sys2Proof.Machine.execTimerIsr s

end Sys2Proof.Machine
end

