-- ==== Sys2Proof/Machine/Turns.lean ====
section
/-! DEFINITION. One move of each agent: the command port (30_encoding.md R101), the foreground and handler sequencers (R195,
R230, R266), delivery (R260 to R262), input changes (R45, R255, R256), hardware reset (R290), and which move comes next
(log 1). A move that is not enabled changes nothing (log 2). -/

namespace Sys2Proof.Machine

/-- The move the next step makes: the first of those already fixed, else a free one (R48; log 1). -/
def State.nextEvent (s : State) : Event :=
  match s.sched with
  | e :: _ => e
  | [] => Config.freeEvent s.tick

/-- The state in which the move is made: the move is used up and no result word is output yet (logs 1, 4). -/
def State.consumeEvent (s : State) : State :=
  match s.sched with
  | _ :: es => { s with sched := es, res := none }
  | [] => { s with tick := s.tick + 1, res := none }

/-- The host presents a word; one word waits at a time (R101; log 3). -/
def present (w : CommandWord) (s : State) : State :=
  match s.port with
  | none => { s with port := some w }
  | some _ => s

/-- Acceptance of a command word (R101, R102): decode it and perform it; an illegal word answers `ILLEGAL` (R96). -/
def accept (w : CommandWord) (s : State) : StepResult :=
  match decodeCommand w with
  | .ok i => exec i s
  | .error _ => failed .illegal s

/-- The foreground's turn (R101, R195): held while a handler is active; at `F_IDLE` it accepts a waiting word, elsewhere it
goes on with the `FSM.LOOP` in progress. -/
def foregroundTurn (s : State) : StepResult :=
  if s.hpc = .idle then
    if s.fpc = .idle then
      match s.port with
      | some w => accept w { s with port := none }
      | none => .next s
    else exec .fsmLoop s
  else .next s

/-- The handler's turn (R230): the active handler goes on. -/
def handlerTurn (s : State) : StepResult :=
  match contextOf s.hpc with
  | .fg => .next s
  | .key => exec .keyIsr s
  | .tmr => exec .timerIsr s

/-- `Deliver(l)` (R260, R262): enabled when no handler is active and the line is dispatchable; the vector-table entry names
the handler (R98). -/
def deliverTurn (l : Fin 8) (s : State) : StepResult :=
  if s.hpc = .idle ∧ s.ic.dispatchable l = true then
    match decodeVector (vecCode s.ic.vec[l.val]) with
    | .ok i => exec i s
    | .error _ => .next s
  else .next s

/-- The environment's new inputs; a falling edge of `key_pin` makes the key line pending (R255, R256). -/
def inputChange (rows : Vector Nibble 4) (pin : Bool) (s : State) : State :=
  let s1 := { s with kmRow := rows, keyPin := pin }
  if s.keyPin && !pin then setPending Config.lineKey s1 else s1

/-- Hardware reset (R290): every register at its reset value; the inputs, the host's waiting word and the moves to come are
not registers of the block (log 6). -/
def hardwareReset (s : State) : State :=
  { State.reset with kmRow := s.kmRow, keyPin := s.keyPin, port := s.port, sched := s.sched, tick := s.tick }

/-- One move. -/
def turn (e : Event) (s : State) : StepResult :=
  match e with
  | .present w => .next (present w s)
  | .foreground => foregroundTurn s
  | .handler => handlerTurn s
  | .deliver l => deliverTurn l s
  | .pulse t => .next (pulse t s)
  | .input rows pin => .next (inputChange rows pin s)
  | .rst => .next (hardwareReset s)

/-- A command word placed so that the next step accepts it: it waits on the port, both sequencers are idle, and the
foreground's turn is next (log 12). -/
def placeCommand (w : CommandWord) (s : State) : State :=
  { s with port := some w, fpc := .idle, hpc := .idle, sched := .foreground :: s.sched }

/-- The vector-table entry a 2-bit identifier stands for (R37); the unused value 3 stands for none. -/
def entryOf (id : VectorId) : VecEntry :=
  if id = 0b01#2 then .vKey else if id = 0b10#2 then .vTmr else .vNone

/-- A handler identifier placed so that the next step delivers it: it is in the vector-table entry of line `l`, the line is
dispatchable, no handler is active, and `Deliver(l)` is next (log 12). -/
def placeVector (l : Fin 8) (id : VectorId) (s : State) : State :=
  { s with
    ic := { s.ic with
      vec := s.ic.vec.set l.val (entryOf id)
      pnd := setLineBit s.ic.pnd l true
      msk := setLineBit s.ic.msk l false
      mod := setLineBit s.ic.mod l false
      irqEn := true
      vectored := true }
    hpc := .idle
    sched := .deliver l :: s.sched }

/-- The line of a handler identifier: line 6 for `key_isr`, the playback timer's line for the rest (R255). -/
def vectorLine (id : VectorId) : Fin 8 :=
  if id = 0b01#2 then Config.lineKey else Config.lineTmr Config.playbackTimer

/-- A table row's bits placed where the next step finds its instruction (logs 12, 18). -/
def placeWord (nbits w : Nat) (s : State) : State :=
  if nbits ≤ 8 then placeVector (vectorLine (BitVec.ofNat 2 w)) (BitVec.ofNat 2 w) s
  else placeCommand (BitVec.ofNat 48 w) s

end Sys2Proof.Machine
end

