-- ==== Sys2Proof/Machine/Step.lean ====
section
/-! DEFINITION. One step of the block: the next move of the next agent (00_scope.md R13). -/

namespace Sys2Proof.Machine

/-- One atomic step (R13). -/
def step (s : State) : Host.Outcome State Fault Refusal := turn s.nextEvent s.consumeEvent

/-- `s` with a table row's instruction placed where `step` fetches its next one (log 12). -/
def State.withFetchWord (s : State) (nbits w : Nat) : State := placeWord nbits w s

end Sys2Proof.Machine
end

