-- ==== Sys2Proof/Safety.lean ====
section
/-! DEFINITION. What the spec promises of the states a run reaches: the block's invariant, and the stronger invariant of a
game the host does not disturb (70_reset_and_hazards.md R305). Statements about several steps use `runSteps`. -/

namespace Sys2Proof.Machine

/-- `k` steps of the block, one after another. -/
def runSteps (k : Nat) (s : State) : StepResult := Host.Core.run Sys2Proof.core k s

/-- The ring buffer invariant (R22). -/
structure RingBuffer.Inv (r : RingBuffer) : Prop where
  cap_pos : 1 ≤ r.cap.toNat
  cap_le : r.cap.toNat ≤ 4
  start_lt : r.startIdx.toNat < r.cap.toNat
  end_lt : r.endIdx.toNat < r.cap.toNat
  full_eq : r.full = true → r.startIdx = r.endIdx

/-- Which `gs` each foreground position belongs to (R192, R193, R194, R200, R203, R206). -/
def phaseMatches (g : GameState) : Fpc → Prop
  | .idle => True
  | .initDisp => g = .init
  | .guessDisp => g = .guess
  | .capReset | .capClear | .capArm | .capWait | .capSize => g = .init ∨ g = .guess
  | .pbWmark | .pbClear | .pbTarget | .pbStart | .pbWait => g = .showPassword ∨ g = .showGuess
  | .goCmp => g = .gameOver

/-- The positions after `H_K_SCAN`, the only ones where `term_seen` can be 1 (R28). -/
def afterScan : Hpc → Bool
  | .kRelease | .kSettle2 | .kExit => true
  | .idle | .kSettle1 | .kScan | .tBody | .tExit => false

/-- The invariant of the block: it holds after reset and every step keeps it, whatever the host, the environment and the
timers do. -/
structure BlockInv (s : State) : Prop where
  /-- R22. -/
  rb : s.rb.Inv
  /-- Every divider is one its timer admits (R152, R153). -/
  div_ok : ∀ t : Fin 6, ratioOk t s.tm[t.val].div = true
  /-- Line 7 has no source (R255). -/
  line7 : lineBit s.ic.pnd 7 = false
  /-- The only registered pairs are (line 0, `timer_isr`) and (line 6, `key_isr`) (R262). -/
  vec_tmr : ∀ l : Fin 8, s.ic.vec[l.val] = .vTmr → l = 0
  /-- As `vec_tmr`, for `key_isr`. -/
  vec_key : ∀ l : Fin 8, s.ic.vec[l.val] = .vKey → l = 6
  /-- `term_seen` is 0 outside the steps after the scan, in particular at `H_IDLE` (R28). -/
  term : s.termSeen = true → afterScan s.hpc = true
  /-- R29. -/
  ncap_le : s.ncap.toNat ≤ 4
  /-- R25. -/
  wmark_le : s.showWatermark.toNat ≤ 4
  /-- The foreground's position fits `gs`. -/
  phase : phaseMatches s.gs s.fpc

/-- The commands that leave a game undisturbed (R305). -/
def quietCommand : Instr → Bool
  | .fsmLoop | .sysRegrd _ | .rbIsEmpty | .rbIsFull | .rbSize | .rbCapacity | .tmIsRunning _ | .kmScan => true
  | .rbInit _ | .rbReset | .rbPut _ | .rbGet | .icReset | .icCfgGlobal _ _ | .icCfgFiq _ | .icSetMode _ _ | .icEnable _
  | .icDisable _ | .icAck _ | .tmSetPrescaler _ _ | .tmSetDivider _ _ | .tmSetCount _ _ _ | .tmSetMode _ _ | .tmCommit _
  | .tmStart _ | .tmStop _ | .tmCfgPeriod _ _ _ | .fsmSetup | .keyIsr | .timerIsr => false

/-- A command word of such a command. -/
def quietWord (w : CommandWord) : Bool :=
  match decodeCommand w with
  | .ok i => quietCommand i
  | .error _ => false

/-- A move that leaves a game undisturbed: any but hardware reset and the presentation of another command (R305). -/
def quietEvent : Event → Bool
  | .present w => quietWord w
  | .foreground | .handler | .deliver _ | .pulse _ | .input _ _ => true
  | .rst => false

/-- The playback destination of the present `gs` (R203). -/
def State.playbackTarget (s : State) : Target := if s.gs = .showPassword then .tPwd else .tGuess

/-- The result buffer the present `gs` plays into (R203). -/
def State.playbackBuffer (s : State) : Vector Byte 4 := if s.gs = .showPassword then s.pwd else s.guess

/-- The foreground waits for a playback that is still going on. -/
def State.playing (s : State) : Prop := s.fpc = .pbWait ∧ s.showDone = false

/-- The bytes of the playback in progress: those already stored, then those still in the ring buffer; once it is complete,
the whole result buffer. -/
def State.playbackBytes (s : State) : List Byte :=
  if s.showDone then s.playbackBuffer.toList else s.playbackBuffer.toList.take s.played.toNat ++ s.rb.contents

/-- The invariant of an undisturbed game (R208, R209, R210): what `FSM.SETUP` establishes on a block whose timer 0 is
stopped and not pending, and every step keeps as long as the host issues only the commands of R305. -/
structure GameInv (s : State) : Prop where
  base : BlockInv s
  cap : s.rb.cap = 4#3
  /-- As `FSM.SETUP` leaves the controller (R139), but for the masks and pending bits. -/
  enables : s.ic.irqEn = true ∧ s.ic.fiqEn = false ∧ s.ic.vectored = true ∧ s.ic.mod = 0x00#8
  vec : s.ic.vec = #v[.vTmr, .vNone, .vNone, .vNone, .vNone, .vNone, .vKey, .vNone]
  reload : s.tm[0].mode = .reload
  /-- Only undisturbing commands wait on the port. -/
  port : ∀ w, s.port = some w → quietWord w = true
  /-- The key line is Unmasked only while the capture waits (R210). -/
  mask : s.ic.msk = 0xFE#8 ∨ (s.ic.msk = 0xBE#8 ∧ s.fpc = .capWait)
  /-- While no handler is active, a waiting capture has seen its terminator exactly when the line is Masked again (R199). -/
  armed : s.fpc = .capWait → s.hpc = .idle → (s.inputDone = true ↔ s.ic.msk = 0xFE#8)
  /-- The flag is cleared before the line is armed (R197, R303). -/
  disarmed : s.fpc = .capArm → s.inputDone = false
  /-- `key_isr` runs only during the wait of a capture, on the Unmasked line. -/
  key_ctx : contextOf s.hpc = .key → s.fpc = .capWait ∧ s.ic.msk = 0xBE#8
  key_before : s.hpc = .kSettle1 ∨ s.hpc = .kScan → s.inputDone = false
  key_after : afterScan s.hpc = true → s.inputDone = s.termSeen
  /-- `timer_isr` runs only during the wait of a playback. -/
  tmr_ctx : contextOf s.hpc = .tmr → s.fpc = .pbWait
  tmr_body : s.hpc = .tBody → s.showDone = false
  /-- Timer 0 runs exactly while a playback goes on (R210). -/
  run : s.tm[0].run = true ↔ s.playing
  tick : lineBit s.ic.pnd 0 = true → s.fpc = .pbWait ∧ (s.showDone = false ∨ s.hpc = .tExit)
  /-- R210. -/
  idle_played : s.fpc ≠ .pbWait → s.played = 0#8
  wmark : s.fpc = .pbClear ∨ s.fpc = .pbTarget ∨ s.fpc = .pbStart ∨ s.fpc = .pbWait → s.showWatermark = 4#8
  cleared : s.fpc = .pbTarget ∨ s.fpc = .pbStart → s.showDone = false
  dest : s.fpc = .pbStart ∨ s.fpc = .pbWait → s.target = s.playbackTarget
  /-- A captured attempt waits in the full buffer until its playback (R209). -/
  captured : s.gs = .showPassword ∨ s.gs = .showGuess → s.fpc ≠ .pbWait → s.rb.full = true
  /-- The bytes played and the bytes left are four (R208). -/
  progress : s.playing → (s.rb.contents.length + s.played.toNat = 4)
  complete : s.fpc = .pbWait → s.showDone = true → s.played = 0#8 ∧ s.rb.isEmpty = true

end Sys2Proof.Machine
end

