-- ==== Sys2Proof/WellFormed.lean ====
section
/-! DEFINITION. Well-formedness: an instruction is well formed when every operand names something its rule admits. The
checks are the table of 60_exceptions.md R251. A command that is not well formed is still decoded and executed: its result is
`INVALID` and it writes no state (R92, R250). Every operand value the fields can hold is encodable, so decoding and encoding
agree on instructions that are not well formed too. -/

namespace Sys2Proof

open Sys2Proof.Machine

/-- The operand checks of R251, one line per command that has one. -/
def Instr.wellFormed : Instr → Bool
  | .sysRegrd a => regNumberValid a.toNat
  | .rbInit a => (capacityOf a).isSome
  | .rbReset => true
  | .rbPut _ => true
  | .rbGet => true
  | .rbIsEmpty => true
  | .rbIsFull => true
  | .rbSize => true
  | .rbCapacity => true
  | .icReset => true
  | .icCfgGlobal a b => (boolOf a.toNat).isSome && (boolOf b.toNat).isSome
  | .icCfgFiq a => (boolOf a.toNat).isSome
  | .icSetMode a b => (lineOf a).isSome && (lineModeOf b.toNat).isSome
  | .icEnable a => (lineOf a).isSome
  | .icDisable a => (lineOf a).isSome
  | .icAck a => (lineOf a).isSome
  | .tmSetPrescaler a b => (groupOf a).isSome && (prescaleOf b).isSome
  | .tmSetDivider a b => ((timerOf a).bind fun t => dividerOf t b).isSome
  | .tmSetCount a _ _ => (timerOf a).isSome
  | .tmSetMode a b => (timerOf a).isSome && (timerModeOf b.toNat).isSome
  | .tmCommit a => (timerOf a).isSome
  | .tmStart a => (timerOf a).isSome
  | .tmStop a => (timerOf a).isSome
  | .tmIsRunning a => (timerOf a).isSome
  | .tmCfgPeriod a b c => (timerOf a).isSome && (periodOf b.toNat).isSome && (timerModeOf c.toNat).isSome
  | .kmScan => true
  | .fsmSetup => true
  | .fsmLoop => true
  | .keyIsr => true
  | .timerIsr => true

end Sys2Proof
end

