-- ==== Sys2Proof/Certificates/Slice0/Obligations.lean ====
section
/-! DEFINITION. The statements for the provers, in the order of OBLIGATIONS.json. A statement whose conclusion is
`exec i s = .next …` says that the instruction completes, with its whole effect: every part of the state that the record
update does not name is unchanged. -/

open Sys2Proof Sys2Proof.Machine

/-! ### Encoding -/

/-- A row of the table of R91 and R95: match value, mask of fixed bits, and the command it stands for. -/
structure Sys2Proof.MaskRow where
  pattern : CommandWord
  mask : CommandWord
  stands : Instr → Bool

/-- The 28 command rows of spec/opcode_table.json. -/
def Sys2Proof.maskTable : List MaskRow :=
  [ ⟨0x010000000000, 0xFF00FFFFFFFF, fun | .sysRegrd _ => true | _ => false⟩,
    ⟨0x100000000000, 0xFF00FFFFFFFF, fun | .rbInit _ => true | _ => false⟩,
    ⟨0x110000000000, 0xFFFFFFFFFFFF, fun | .rbReset => true | _ => false⟩,
    ⟨0x120000000000, 0xFF00FFFFFFFF, fun | .rbPut _ => true | _ => false⟩,
    ⟨0x130000000000, 0xFFFFFFFFFFFF, fun | .rbGet => true | _ => false⟩,
    ⟨0x140000000000, 0xFFFFFFFFFFFF, fun | .rbIsEmpty => true | _ => false⟩,
    ⟨0x150000000000, 0xFFFFFFFFFFFF, fun | .rbIsFull => true | _ => false⟩,
    ⟨0x160000000000, 0xFFFFFFFFFFFF, fun | .rbSize => true | _ => false⟩,
    ⟨0x170000000000, 0xFFFFFFFFFFFF, fun | .rbCapacity => true | _ => false⟩,
    ⟨0x200000000000, 0xFFFFFFFFFFFF, fun | .icReset => true | _ => false⟩,
    ⟨0x210000000000, 0xFF000000FFFF, fun | .icCfgGlobal _ _ => true | _ => false⟩,
    ⟨0x220000000000, 0xFF00FFFFFFFF, fun | .icCfgFiq _ => true | _ => false⟩,
    ⟨0x230000000000, 0xFF000000FFFF, fun | .icSetMode _ _ => true | _ => false⟩,
    ⟨0x240000000000, 0xFF00FFFFFFFF, fun | .icEnable _ => true | _ => false⟩ ] ++
  [ ⟨0x250000000000, 0xFF00FFFFFFFF, fun | .icDisable _ => true | _ => false⟩,
    ⟨0x260000000000, 0xFF00FFFFFFFF, fun | .icAck _ => true | _ => false⟩,
    ⟨0x300000000000, 0xFF000000FFFF, fun | .tmSetPrescaler _ _ => true | _ => false⟩,
    ⟨0x310000000000, 0xFF000000FFFF, fun | .tmSetDivider _ _ => true | _ => false⟩,
    ⟨0x320000000000, 0xFF0000000000, fun | .tmSetCount _ _ _ => true | _ => false⟩,
    ⟨0x330000000000, 0xFF000000FFFF, fun | .tmSetMode _ _ => true | _ => false⟩,
    ⟨0x340000000000, 0xFF00FFFFFFFF, fun | .tmCommit _ => true | _ => false⟩,
    ⟨0x350000000000, 0xFF00FFFFFFFF, fun | .tmStart _ => true | _ => false⟩,
    ⟨0x360000000000, 0xFF00FFFFFFFF, fun | .tmStop _ => true | _ => false⟩,
    ⟨0x370000000000, 0xFF00FFFFFFFF, fun | .tmIsRunning _ => true | _ => false⟩,
    ⟨0x380000000000, 0xFF0000000000, fun | .tmCfgPeriod _ _ _ => true | _ => false⟩,
    ⟨0x400000000000, 0xFFFFFFFFFFFF, fun | .kmScan => true | _ => false⟩,
    ⟨0x500000000000, 0xFFFFFFFFFFFF, fun | .fsmSetup => true | _ => false⟩,
    ⟨0x510000000000, 0xFFFFFFFFFFFF, fun | .fsmLoop => true | _ => false⟩ ]

/-- R90, R91, R95, R98: no bit of an encoding is dropped, for every instruction and every operand value. -/
def Obligations.DecodeOfEncodeIsTheInstruction : Prop :=
  ∀ i : Instr, decode (encode i) = .ok i

/-- R96: a decoded word is the encoding of its instruction, so two words never stand for one instruction. -/
def Obligations.EncodeOfDecodeIsTheWord : Prop :=
  ∀ (e : Encoded) (i : Instr), decode e = .ok i → encode i = e

/-- R91: `w AND k = m` selects the command with match value `m` and mask `k`, for every row and every word. -/
def Obligations.MaskedWordSelectsItsCommand : Prop :=
  ∀ w : CommandWord, ∀ row ∈ maskTable,
    w &&& row.mask = row.pattern ↔ ∃ i, decodeCommand w = .ok i ∧ row.stands i = true

/-- R96: a word that no row selects is illegal: accepted, it returns -3, writes no state, emits nothing. -/
def Obligations.IllegalWordAnswersIllegal : Prop :=
  ∀ (s : State) (w : CommandWord),
    s.nextEvent = .foreground → s.hpc = .idle → s.fpc = .idle → s.port = some w →
    (∀ row ∈ maskTable, w &&& row.mask ≠ row.pattern) →
    step s = .next { s.consumeEvent with port := none, res := some 0xFFFFFFFD#32 }

/-- Words written out from the encodings of R90, R95 (95_test_vectors.md) and the identifiers of R98. -/
def Obligations.SampleEncodingsDecode : Prop :=
  decodeCommand 0x120700000000 = .ok (.rbPut 7) ∧
  decodeCommand 0x230600010000 = .ok (.icSetMode 6 1) ∧
  decodeCommand 0x3200F4240001 = .ok (.tmSetCount 0 62500 1) ∧
  decodeCommand 0x400000000000 = .ok .kmScan ∧
  decodeCommand 0x510000000000 = .ok .fsmLoop ∧
  decodeCommand 0x014700000000 = .ok (.sysRegrd 0x47) ∧
  decodeVector 0b01 = .ok .keyIsr ∧
  decodeVector 0b10 = .ok .timerIsr

/-! ### What a step runs -/

/-- R101: with both sequencers idle and a word waiting, the foreground's turn decodes it and performs it. What `step` adds
around `exec` is the model's own (log 1): the move it used up, no result word yet, the port free again. -/
def Obligations.StepRunsTheDecodedCommand : Prop :=
  (∀ (s : State) (w : CommandWord) (i : Instr),
    s.nextEvent = .foreground → s.hpc = .idle → s.fpc = .idle → s.port = some w → decodeCommand w = .ok i →
    step s = exec i { s.consumeEvent with port := none }) ∧
  ∀ s : State,
    (∀ e es, s.sched = e :: es → s.nextEvent = e ∧ s.consumeEvent = { s with sched := es, res := none }) ∧
    (s.sched = [] → s.nextEvent = Config.freeEvent s.tick ∧
      s.consumeEvent = { s with tick := s.tick + 1, res := none })

/-- R195, R230, R266: an `FSM.LOOP` or a handler in progress goes on at its sequencer's turn; a turn of a sequencer that
may not step changes nothing. -/
def Obligations.StepContinuesTheActiveSequencer : Prop :=
  ∀ s : State,
    (s.nextEvent = .foreground → s.hpc = .idle → s.fpc ≠ .idle → step s = exec .fsmLoop s.consumeEvent) ∧
    (s.nextEvent = .foreground → s.hpc ≠ .idle → step s = .next s.consumeEvent) ∧
    (s.nextEvent = .foreground → s.hpc = .idle → s.fpc = .idle → s.port = none → step s = .next s.consumeEvent) ∧
    (s.nextEvent = .handler → contextOf s.hpc = .key → step s = exec .keyIsr s.consumeEvent) ∧
    (s.nextEvent = .handler → contextOf s.hpc = .tmr → step s = exec .timerIsr s.consumeEvent) ∧
    (s.nextEvent = .handler → s.hpc = .idle → step s = .next s.consumeEvent)

/-- R258, R260, R262, R263, R266, R267: `Deliver(l)` starts the handler registered for a dispatchable line when no handler is
active, writing `hpc` (and `term_seen`) only; in every other state it does nothing. -/
def Obligations.DeliveryStartsTheRegisteredHandler : Prop :=
  ∀ (s : State) (l : Fin 8), s.nextEvent = .deliver l →
    step s =
      if s.hpc = .idle ∧ lineBit s.ic.pnd l = true ∧ lineBit s.ic.msk l = false ∧ lineBit s.ic.mod l = false ∧
          s.ic.irqEn = true ∧ s.ic.vectored = true then
        match s.ic.vec[l.val] with
        | .vKey => .next { s.consumeEvent with hpc := .kSettle1, termSeen := false }
        | .vTmr => .next { s.consumeEvent with hpc := .tBody }
        | .vNone => .next s.consumeEvent
      else .next s.consumeEvent

/-- R101: a word presented on an empty port waits there, and nothing else changes. A waiting word has no effect and keeps
waiting, whatever the move, until both sequencers are idle and the foreground takes it. That the host's next word is ignored
while one waits is the model's choice (log 3), and so is that a hardware reset leaves the waiting word (log 6). -/
def Obligations.WaitingWordIsTakenOnlyWhenIdle : Prop :=
  (∀ (s : State) (w : CommandWord), s.nextEvent = .present w →
    (s.port = none → step s = .next { s.consumeEvent with port := some w }) ∧
    (s.port ≠ none → step s = .next s.consumeEvent)) ∧
  ∀ (s t : State) (w : CommandWord), s.port = some w → step s = .next t →
    t.port = some w ∨ (t.port = none ∧ s.nextEvent = .foreground ∧ s.hpc = .idle ∧ s.fpc = .idle)

/-- R253: no command and no micro-step stops the block or transfers control because of an error. -/
def Obligations.EveryStepAnswersANextState : Prop :=
  (∀ (i : Instr) (s : State), ∃ t, exec i s = .next t) ∧ ∀ s : State, ∃ t, step s = .next t

/-- The operand ranges of R251, in numbers. -/
def Sys2Proof.rangesOk : Instr → Prop
  | .sysRegrd a => (0x10 ≤ a.toNat ∧ a.toNat ≤ 0x17) ∨ (0x20 ≤ a.toNat ∧ a.toNat ≤ 0x24) ∨
      (0x30 ≤ a.toNat ∧ a.toNat ≤ 0x32) ∨ (0x40 ≤ a.toNat ∧ a.toNat ≤ 0x6F) ∨ (0x70 ≤ a.toNat ∧ a.toNat ≤ 0x74) ∨
      (0x80 ≤ a.toNat ∧ a.toNat ≤ 0x89) ∨ (0x90 ≤ a.toNat ∧ a.toNat ≤ 0x98)
  | .rbInit a => 1 ≤ a.toNat ∧ a.toNat ≤ 4
  | .icCfgGlobal a b => a.toNat ≤ 1 ∧ b.toNat ≤ 1
  | .icCfgFiq a => a.toNat ≤ 1
  | .icSetMode a b => a.toNat ≤ 7 ∧ b.toNat ≤ 1
  | .icEnable a | .icDisable a | .icAck a => a.toNat ≤ 7
  | .tmSetPrescaler a b => a.toNat ≤ 2 ∧ b.toNat ≤ 255
  | .tmSetDivider a b => a.toNat ≤ 5 ∧ (b.toNat ≤ 3 ∨ (b.toNat = 4 ∧ a.toNat ≤ 3) ∨ (b.toNat = 5 ∧ a.toNat = 4) ∨
      (b.toNat = 6 ∧ a.toNat = 5))
  | .tmSetMode a b => a.toNat ≤ 5 ∧ b.toNat ≤ 1
  | .tmSetCount a _ _ | .tmCommit a | .tmStart a | .tmStop a | .tmIsRunning a => a.toNat ≤ 5
  | .tmCfgPeriod a b c => a.toNat ≤ 5 ∧ b.toNat ≤ 3 ∧ c.toNat ≤ 1
  | .rbReset | .rbPut _ | .rbGet | .rbIsEmpty | .rbIsFull | .rbSize | .rbCapacity | .icReset | .kmScan | .fsmSetup
  | .fsmLoop | .keyIsr | .timerIsr => True

/-- R251, R92: `INVALID` with no state written exactly outside the ranges of the table. -/
def Obligations.InvalidExactlyOutsideTheRanges : Prop :=
  ∀ (i : Instr) (s : State),
    (¬ rangesOk i → exec i s = .next { s with res := some 0xFFFFFFFF#32 }) ∧
    (rangesOk i → s.rb.Inv → s.res = none → ∃ t, exec i s = .next t ∧ t.res ≠ some 0xFFFFFFFF#32) ∧
    (i.wellFormed = true ↔ rangesOk i)

/-! ### Ring buffer -/

/-- R110, R111: both empty the buffer and keep the storage; `RB.INIT` sets the capacity, or answers `INVALID`. -/
def Obligations.RbInitAndResetEmptyTheBuffer : Prop :=
  ∀ (s : State) (a : Byte),
    exec (.rbInit a) s = .next (
      if 1 ≤ a.toNat ∧ a.toNat ≤ 4 then
        { s with
          rb := { s.rb with cap := a.setWidth 3, startIdx := 0#2, endIdx := 0#2, full := false }
          res := some 0#32 }
      else { s with res := some 0xFFFFFFFF#32 }) ∧
    exec .rbReset s =
      .next { s with rb := { s.rb with startIdx := 0#2, endIdx := 0#2, full := false }, res := some 0#32 }

/-- R112: the byte goes to the slot `rb_start`; when full both indices advance, else `rb_full` is set by the put that
reaches `rb_end`. -/
def Obligations.RbPutWritesAndOverwritesOldest : Prop :=
  ∀ (s : State) (a : Byte),
    let inc := fun p : BitVec 2 => BitVec.ofNat 2 ((p.toNat + 1) % s.rb.cap.toNat)
    exec (.rbPut a) s = .next { s with
      rb := { s.rb with
        buf := s.rb.buf.set s.rb.startIdx.toNat a s.rb.startIdx.isLt
        startIdx := inc s.rb.startIdx
        endIdx := if s.rb.full then inc s.rb.endIdx else s.rb.endIdx
        full := s.rb.full || inc s.rb.startIdx == s.rb.endIdx }
      res := some 0#32 }

/-- R113: `EMPTY` and no mutation on an empty buffer, else the byte at `rb_end`, which advances. -/
def Obligations.RbGetPopsOrAnswersEmpty : Prop :=
  ∀ s : State,
    exec .rbGet s =
      if s.rb.full = false ∧ s.rb.startIdx = s.rb.endIdx then .next { s with res := some 0xFFFFFFFE#32 }
      else .next { s with
        rb := { s.rb with
          endIdx := BitVec.ofNat 2 ((s.rb.endIdx.toNat + 1) % s.rb.cap.toNat)
          full := false }
        res := some ((s.rb.buf[s.rb.endIdx.toNat]'s.rb.endIdx.isLt).setWidth 32) }

/-- R114 to R117: the four queries write nothing but the result word. -/
def Obligations.RbQueriesReportTheBuffer : Prop :=
  ∀ s : State,
    exec .rbIsEmpty s =
      .next { s with res := some (if s.rb.full = false ∧ s.rb.startIdx = s.rb.endIdx then 1#32 else 0#32) } ∧
    exec .rbIsFull s = .next { s with res := some (if s.rb.full = true then 1#32 else 0#32) } ∧
    exec .rbSize s = .next { s with res := some (
      if s.rb.full = true then BitVec.ofNat 32 s.rb.cap.toNat
      else if s.rb.endIdx.toNat ≤ s.rb.startIdx.toNat then BitVec.ofNat 32 (s.rb.startIdx.toNat - s.rb.endIdx.toNat)
      else BitVec.ofInt 32 ((s.rb.startIdx.toNat : Int) - s.rb.endIdx.toNat + s.rb.cap.toNat)) } ∧
    exec .rbCapacity s = .next { s with res := some (BitVec.ofNat 32 s.rb.cap.toNat) }

/-- One command after another, as the host issues them (R165): the result words, and the state after the last. -/
def Sys2Proof.runResults : List Instr → State → Option (List (Option ResultWord) × State)
  | [], s => some ([], s)
  | i :: is, s =>
    match exec i s with
    | .next t => (runResults is t).map fun q => (t.res :: q.1, q.2)
    | _ => none

/-- R118, the FIFO law, on every buffer that meets the invariant of R22; its last clause is the source's property: from
an empty buffer, puts not exceeding the capacity come back in order, and the size is the puts minus the gets. -/
def Obligations.RingBufferIsFirstInFirstOut : Prop :=
  ∀ s : State, s.rb.Inv →
    (s.rb.contents.length : Int) = s.rb.size ∧
    (∀ b, ∃ t, exec (.rbPut b) s = .next t ∧ t.rb.contents =
      if s.rb.contents.length < s.rb.cap.toNat then s.rb.contents ++ [b] else s.rb.contents.tail ++ [b]) ∧
    (∀ b l, s.rb.contents = b :: l →
      ∃ t, exec .rbGet s = .next t ∧ t.res = some (b.setWidth 32) ∧ t.rb.contents = l) ∧
    (s.rb.contents = [] → exec .rbGet s = .next { s with res := some 0xFFFFFFFE#32 }) ∧
    (∃ t, exec .rbReset s = .next t ∧ t.rb.contents = []) ∧
    (∀ a : Byte, 1 ≤ a.toNat → a.toNat ≤ 4 → ∃ t, exec (.rbInit a) s = .next t ∧ t.rb.contents = []) ∧
    (s.rb.contents = [] → ∀ (bs : List Byte) (k : Nat), bs.length ≤ s.rb.cap.toNat → k ≤ bs.length →
      ∃ t, runResults (bs.map .rbPut ++ List.replicate k .rbGet) s =
          some (bs.map (fun _ => some 0#32) ++ (bs.take k).map (fun b => some (b.setWidth 32)), t) ∧
        t.rb.size = (bs.length : Int) - k)

/-- R118 and the source's property S2: any sequence of puts into an emptied buffer retains exactly the most recent
`rb_cap` bytes in order, and the buffer is full exactly when capacity has been reached. -/
def Obligations.PutsRetainTheMostRecentBytes : Prop :=
  ∀ (r : RingBuffer) (bs : List Byte), r.Inv →
    (bs.foldl RingBuffer.put r.reset).contents = bs.drop (bs.length - r.cap.toNat) ∧
    ((bs.foldl RingBuffer.put r.reset).full = true ↔ r.cap.toNat ≤ bs.length)

/-! ### Interrupt controller -/

/-- R130, R131, R132: `IC.RESET` writes modes, masks, dispatch and enables and keeps `IC_PND` and `IC_VEC`; the two
configuration commands write the global enables and the dispatch. -/
def Obligations.IcResetAndGlobalEnablesAreWritten : Prop :=
  ∀ (s : State) (a : Byte) (b : Half),
    exec .icReset s = .next { s with
      ic := { s.ic with mod := 0x00#8, msk := 0xFF#8, vectored := false, irqEn := false, fiqEn := false }
      res := some 0#32 } ∧
    exec (.icCfgGlobal a b) s = .next (
      if a.toNat ≤ 1 ∧ b.toNat ≤ 1 then
        { s with ic := { s.ic with irqEn := a == 1#8, vectored := b == 1#16 }, res := some 0#32 }
      else { s with res := some 0xFFFFFFFF#32 }) ∧
    exec (.icCfgFiq a) s = .next (
      if a.toNat ≤ 1 then { s with ic := { s.ic with fiqEn := a == 1#8 }, res := some 0#32 }
      else { s with res := some 0xFFFFFFFF#32 })

/-- R133 to R138: on a valid line each command writes one bit of one register, every other bit as it was; on an invalid line
or mode it answers `INVALID`. -/
def Obligations.IcLineCommandsWriteOneBit : Prop :=
  ∀ (s : State) (a : Byte) (b : Half),
    (∀ l : Fin 8, a.toNat = l.val →
      (b.toNat ≤ 1 → ∃ v, (∀ k, lineBit v k = if k = l then b == 1#16 else lineBit s.ic.mod k) ∧
        exec (.icSetMode a b) s = .next { s with ic := { s.ic with mod := v }, res := some 0#32 }) ∧
      (∃ v, (∀ k, lineBit v k = if k = l then false else lineBit s.ic.msk k) ∧
        exec (.icEnable a) s = .next { s with ic := { s.ic with msk := v }, res := some 0#32 }) ∧
      (∃ v, (∀ k, lineBit v k = if k = l then true else lineBit s.ic.msk k) ∧
        exec (.icDisable a) s = .next { s with ic := { s.ic with msk := v }, res := some 0#32 }) ∧
      (∃ v, (∀ k, lineBit v k = if k = l then false else lineBit s.ic.pnd k) ∧
        exec (.icAck a) s = .next { s with ic := { s.ic with pnd := v }, res := some 0#32 })) ∧
    (2 ≤ b.toNat → exec (.icSetMode a b) s = .next { s with res := some 0xFFFFFFFF#32 }) ∧
    (8 ≤ a.toNat →
      exec (.icSetMode a b) s = .next { s with res := some 0xFFFFFFFF#32 } ∧
      exec (.icEnable a) s = .next { s with res := some 0xFFFFFFFF#32 } ∧
      exec (.icDisable a) s = .next { s with res := some 0xFFFFFFFF#32 } ∧
      exec (.icAck a) s = .next { s with res := some 0xFFFFFFFF#32 })

/-- R258, R259: the request outputs as functions of the enables, masks, modes and pending bits. -/
def Obligations.RequestOutputsFollowTheGating : Prop :=
  ∀ ic : IntCtl,
    (ic.irqOut = true ↔ ic.irqEn = true ∧
      ∃ l : Fin 8, lineBit ic.pnd l = true ∧ lineBit ic.msk l = false ∧ lineBit ic.mod l = false) ∧
    (ic.fiqOut = true ↔ ic.fiqEn = true ∧
      ∃ l : Fin 8, lineBit ic.pnd l = true ∧ lineBit ic.msk l = false ∧ lineBit ic.mod l = true)

/-! ### Timers -/

/-- R151: the prescaler of the group, at once; nothing else. -/
def Obligations.TmSetPrescalerWritesItsGroup : Prop :=
  ∀ (s : State) (a : Byte) (b : Half),
    (∀ g : Fin 3, a.toNat = g.val → b.toNat ≤ 255 →
      exec (.tmSetPrescaler a b) s = .next { s with psc := s.psc.set g.val (b.setWidth 8), res := some 0#32 }) ∧
    (3 ≤ a.toNat ∨ 256 ≤ b.toNat → exec (.tmSetPrescaler a b) s = .next { s with res := some 0xFFFFFFFF#32 })

/-- R152, R153: the divider of the timer where the table of R153 says ok, else `INVALID` and no change. -/
def Obligations.TmSetDividerFollowsTheRatioTable : Prop :=
  ∀ (s : State) (a : Byte) (b : Half),
    (∀ (t : Fin 6) (r : Ratio), a.toNat = t.val → b.toNat = (ratioCode r).toNat →
      exec (.tmSetDivider a b) s = .next (
        if b.toNat ≤ 3 ∨ (b.toNat = 4 ∧ t.val ≤ 3) ∨ (b.toNat = 5 ∧ t.val = 4) ∨ (b.toNat = 6 ∧ t.val = 5) then
          { s with tm := s.tm.set t.val { s.tm[t.val] with div := r }, res := some 0#32 }
        else { s with res := some 0xFFFFFFFF#32 })) ∧
    (6 ≤ a.toNat ∨ 7 ≤ b.toNat → exec (.tmSetDivider a b) s = .next { s with res := some 0xFFFFFFFF#32 })

/-- R154, R155: `TM.SET_COUNT` writes only the buffered registers, `TM.SET_MODE` only the mode. -/
def Obligations.TmSetCountAndModeWriteOneTimer : Prop :=
  ∀ (s : State) (a : Byte) (b c : Half),
    (∀ t : Fin 6, a.toNat = t.val →
      exec (.tmSetCount a b c) s = .next { s with
        tm := s.tm.set t.val { s.tm[t.val] with cntb := b, cmpb := c }
        res := some 0#32 } ∧
      (b.toNat ≤ 1 → exec (.tmSetMode a b) s = .next { s with
        tm := s.tm.set t.val { s.tm[t.val] with mode := if b = 1#16 then .reload else .oneShot }
        res := some 0#32 })) ∧
    (2 ≤ b.toNat → exec (.tmSetMode a b) s = .next { s with res := some 0xFFFFFFFF#32 }) ∧
    (6 ≤ a.toNat →
      exec (.tmSetCount a b c) s = .next { s with res := some 0xFFFFFFFF#32 } ∧
      exec (.tmSetMode a b) s = .next { s with res := some 0xFFFFFFFF#32 })

/-- R156 to R159: `TM.COMMIT` makes the buffered count and compare the committed and the live ones, whether or not the timer
runs; start and stop write only the run bit and do not load the counter; the query writes nothing. -/
def Obligations.TmCommitStartStopAndQueryOneTimer : Prop :=
  ∀ (s : State) (a : Byte),
    (∀ t : Fin 6, a.toNat = t.val →
      exec (.tmCommit a) s = .next { s with
        tm := s.tm.set t.val
          { s.tm[t.val] with rld := s.tm[t.val].cntb, cmp := s.tm[t.val].cmpb, cnt := s.tm[t.val].cntb }
        res := some 0#32 } ∧
      exec (.tmStart a) s =
        .next { s with tm := s.tm.set t.val { s.tm[t.val] with run := true }, res := some 0#32 } ∧
      exec (.tmStop a) s =
        .next { s with tm := s.tm.set t.val { s.tm[t.val] with run := false }, res := some 0#32 } ∧
      exec (.tmIsRunning a) s = .next { s with res := some (if s.tm[t.val].run = true then 1#32 else 0#32) }) ∧
    (6 ≤ a.toNat →
      exec (.tmCommit a) s = .next { s with res := some 0xFFFFFFFF#32 } ∧
      exec (.tmStart a) s = .next { s with res := some 0xFFFFFFFF#32 } ∧
      exec (.tmStop a) s = .next { s with res := some 0xFFFFFFFF#32 } ∧
      exec (.tmIsRunning a) s = .next { s with res := some 0xFFFFFFFF#32 })

/-- R160, R161: the row of the period table (its default, log 7), committed; the prescaler of the group 255; the run bit as it was. -/
def Obligations.TmCfgPeriodWritesTheTableRow : Prop :=
  ∀ (s : State) (a : Byte) (b c : Half),
    (∀ t : Fin 6, a.toNat = t.val → b.toNat ≤ 3 → c.toNat ≤ 1 →
      let div : Ratio := if b = 0#16 then .div8 else if b = 1#16 then .div4 else .div2
      let count : Half := if b = 3#16 then 31250#16 else 62500#16
      exec (.tmCfgPeriod a b c) s = .next { s with
        psc := s.psc.set (t.val / 2) 0xFF#8 (by omega)
        tm := s.tm.set t.val
          { div := div, mode := if c = 1#16 then .reload else .oneShot, run := s.tm[t.val].run,
            cntb := count, cmpb := 1#16, rld := count, cmp := 1#16, cnt := count }
        res := some 0#32 }) ∧
    (6 ≤ a.toNat ∨ 4 ≤ b.toNat ∨ 2 ≤ c.toNat →
      exec (.tmCfgPeriod a b c) s = .next { s with res := some 0xFFFFFFFF#32 })

/-- One command after another, as the host issues them (R160, R165): the state after the last. -/
def Sys2Proof.runCommands : List Instr → State → Option State
  | [], s => some s
  | i :: is, s =>
    match exec i s with
    | .next t => runCommands is t
    | _ => none

/-- R160: the effect of `TM.CFG_PERIOD` equals the sequence of the five primitive commands. -/
def Obligations.TmCfgPeriodEqualsFiveCommands : Prop :=
  ∀ (s : State) (t : Fin 6) (b c : Half) (p : Period), periodOf b.toNat = some p → c.toNat ≤ 1 →
    runCommands [.tmCfgPeriod (BitVec.ofNat 8 t.val) b c] s =
    runCommands [.tmSetPrescaler (BitVec.ofNat 8 (t.val / 2)) 255,
      .tmSetDivider (BitVec.ofNat 8 t.val) ((ratioCode (Config.periodTable p).div).setWidth 16),
      .tmSetCount (BitVec.ofNat 8 t.val) (Config.periodTable p).count (Config.periodTable p).cmp,
      .tmSetMode (BitVec.ofNat 8 t.val) c,
      .tmCommit (BitVec.ofNat 8 t.val)] s

/-- R162, R163: a count pulse. Stopped: nothing (R162 has no such pulse; that it is a move that changes nothing is the
model's choice, log 2). Above 1: counts down. At 0 or 1: the line becomes pending and the timer
reloads, or stops at 0. -/
def Obligations.PulseCountsDownAndExpires : Prop :=
  ∀ (s : State) (t : Fin 6), s.nextEvent = .pulse t →
    let x := s.tm[t.val]
    (x.run = false → step s = .next s.consumeEvent) ∧
    (x.run = true → 2 ≤ x.cnt.toNat → step s =
      .next { s.consumeEvent with tm := s.tm.set t.val { x with cnt := x.cnt - 1#16 } }) ∧
    (x.run = true → x.cnt.toNat ≤ 1 → ∃ v, (∀ k, lineBit v k = if k.val = t.val then true else lineBit s.ic.pnd k) ∧
      step s = .next { s.consumeEvent with
        ic := { s.ic with pnd := v }
        tm := s.tm.set t.val
          (if x.mode = .reload then { x with cnt := x.rld } else { x with cnt := 0#16, run := false }) })

/-- R162: a running timer whose count is `n >= 1` expires at its `n`-th pulse and at none before. -/
def Obligations.TimerExpiresAtItsNthPulse : Prop :=
  ∀ (s : State) (t : Fin 6) (es : List Event), s.tm[t.val].run = true → 1 ≤ s.tm[t.val].cnt.toNat →
    let n := s.tm[t.val].cnt.toNat
    let s0 := { s with sched := List.replicate n (.pulse t) ++ es }
    (∀ k, k < n → ∃ u, runSteps k s0 = .next u ∧ u.ic.pnd = s.ic.pnd ∧
      u.tm[t.val].cnt.toNat = n - k) ∧
    ∃ u, runSteps n s0 = .next u ∧ (∀ l : Fin 8, l.val = t.val → lineBit u.ic.pnd l = true) ∧
      (s.tm[t.val].mode = .reload → u.tm[t.val].run = true ∧ u.tm[t.val].cnt = s.tm[t.val].rld) ∧
      (s.tm[t.val].mode = .oneShot → u.tm[t.val].run = false ∧ u.tm[t.val].cnt = 0#16)

/-- The state with the prescalers, the dividers, the compare registers and the result word erased. -/
def Sys2Proof.eraseRates (s : State) : State :=
  { s with
    psc := s.psc.map fun _ => 0#8
    tm := s.tm.map fun x => { x with div := .div2, cmp := 0#16, cmpb := 0#16 }
    res := none }

/-- The next step is a `SYS.REGRD`: the foreground's turn accepts one. -/
def Sys2Proof.readsRegister (s : State) : Prop :=
  s.nextEvent = .foreground ∧ s.hpc = .idle ∧ s.fpc = .idle ∧ ∃ w a, s.port = some w ∧ decodeCommand w = .ok (.sysRegrd a)

/-- R164, R38, R151, R152: no rule of state change reads a compare register, a prescaler or a divider; only `SYS.REGRD` shows
them. -/
def Obligations.ComparesAndRatesHaveNoEffect : Prop :=
  ∀ s s' : State, eraseRates s = eraseRates s' →
    ∃ t t', step s = .next t ∧ step s' = .next t' ∧ eraseRates t = eraseRates t' ∧
      (¬ readsRegister s → t.res = t'.res)

/-! ### Key matrix and read-back -/

/-- R180 to R185: the first line in scan order that is not all high, its lowest column; `KEY_NONE` exactly when all four are
idle. The table is the parameter `Config.kmLut` (log 7). -/
def Obligations.KmScanReportsTheFirstKey : Prop :=
  ∀ s : State,
    (∀ i c : Fin 4, (∀ j : Fin 4, j < i → s.kmRow[j.val] = 0xF#4) →
      s.kmRow[i.val].getLsbD c.val = false → (∀ d : Fin 4, d < c → s.kmRow[i.val].getLsbD d.val = true) →
      exec .kmScan s = .next { s with res := some ((Config.kmLut i c).setWidth 32) }) ∧
    ((∀ j : Fin 4, s.kmRow[j.val] = 0xF#4) → exec .kmScan s = .next { s with res := some 16#32 })

/-- R240, R241: a number of the listed sets reads a register; any other answers `INVALID`; nothing else changes. -/
def Obligations.RegrdReadsExactlyTheListedNumbers : Prop :=
  ∀ (s : State) (a : Byte),
    (rangesOk (.sysRegrd a) → ∃ v : Half, readReg s a.toNat = some v ∧
      exec (.sysRegrd a) s = .next { s with res := some (v.setWidth 32) }) ∧
    (¬ rangesOk (.sysRegrd a) → exec (.sysRegrd a) s = .next { s with res := some 0xFFFFFFFF#32 })

/-- R47, R21, R23 to R39, R45, R46, R93: which register each number reads, and the code that stands for each value of an
enumerated register. -/
def Obligations.RegisterMapReadsEachRegister : Prop :=
  ∀ s : State,
    readReg s 0x10 = some (s.rb.startIdx.setWidth 16) ∧ readReg s 0x11 = some (s.rb.endIdx.setWidth 16) ∧
    readReg s 0x12 = some ((BitVec.ofBool s.rb.full).setWidth 16) ∧ readReg s 0x13 = some (s.rb.cap.setWidth 16) ∧
    (∀ i : Fin 4, readReg s (0x14 + i.val) = some (s.rb.buf[i.val].setWidth 16)) ∧
    readReg s 0x20 = some ((BitVec.ofBool s.ic.vectored ++ BitVec.ofBool s.ic.fiqEn ++ BitVec.ofBool s.ic.irqEn).setWidth 16) ∧
    readReg s 0x21 = some (s.ic.msk.setWidth 16) ∧ readReg s 0x22 = some (s.ic.mod.setWidth 16) ∧
    readReg s 0x23 = some (s.ic.pnd.setWidth 16) ∧
    (∃ v, readReg s 0x24 = some v ∧ ∀ l : Fin 8, v.extractLsb' (2 * l.val) 2 =
      match s.ic.vec[l.val] with | .vNone => 0#2 | .vKey => 1#2 | .vTmr => 2#2) ∧
    (∀ g : Fin 3, readReg s (0x30 + g.val) = some (s.psc[g.val].setWidth 16)) ∧
    (∀ t : Fin 6,
      readReg s (0x40 + 8 * t.val) = some (match s.tm[t.val].div with
        | .div2 => 0#16 | .div4 => 1#16 | .div8 => 2#16 | .div16 => 3#16 | .divx => 4#16 | .ext4 => 5#16 | .ext5 => 6#16) ∧
      readReg s (0x41 + 8 * t.val) = some (match s.tm[t.val].mode with | .oneShot => 0#16 | .reload => 1#16) ∧
      readReg s (0x42 + 8 * t.val) = some ((BitVec.ofBool s.tm[t.val].run).setWidth 16) ∧
      readReg s (0x43 + 8 * t.val) = some s.tm[t.val].cntb ∧ readReg s (0x44 + 8 * t.val) = some s.tm[t.val].cmpb ∧
      readReg s (0x45 + 8 * t.val) = some s.tm[t.val].rld ∧ readReg s (0x46 + 8 * t.val) = some s.tm[t.val].cmp ∧
      readReg s (0x47 + 8 * t.val) = some s.tm[t.val].cnt) ∧
    (∀ i : Fin 4, readReg s (0x70 + i.val) = some (s.kmRow[i.val].setWidth 16)) ∧
    readReg s 0x74 = some ((BitVec.ofBool s.keyPin).setWidth 16) ∧
    readReg s 0x80 = some ((BitVec.ofBool s.inputDone).setWidth 16) ∧
    readReg s 0x81 = some ((BitVec.ofBool s.showDone).setWidth 16) ∧
    readReg s 0x82 = some (s.showWatermark.setWidth 16) ∧
    readReg s 0x83 = some (match s.target with | .tNone => 0#16 | .tPwd => 1#16 | .tGuess => 2#16) ∧
    readReg s 0x84 = some (s.played.setWidth 16) ∧ readReg s 0x85 = some ((BitVec.ofBool s.termSeen).setWidth 16) ∧
    readReg s 0x86 = some (s.ncap.setWidth 16) ∧
    readReg s 0x87 = some (match s.gs with
      | .init => 0#16 | .showPassword => 1#16 | .guess => 2#16 | .showGuess => 3#16 | .gameOver => 4#16) ∧
    readReg s 0x88 = some (match s.fpc with
      | .idle => 0#16 | .initDisp => 1#16 | .guessDisp => 2#16 | .capReset => 3#16 | .capClear => 4#16 | .capArm => 5#16
      | .capWait => 6#16 | .capSize => 7#16 | .pbWmark => 8#16 | .pbClear => 9#16 | .pbTarget => 10#16
      | .pbStart => 11#16 | .pbWait => 12#16 | .goCmp => 13#16) ∧
    readReg s 0x89 = some (match s.hpc with
      | .idle => 0#16 | .kSettle1 => 1#16 | .kScan => 2#16 | .kRelease => 3#16 | .kSettle2 => 4#16 | .kExit => 5#16
      | .tBody => 6#16 | .tExit => 7#16) ∧
    (∀ i : Fin 4, readReg s (0x90 + i.val) = some (s.pwd[i.val].setWidth 16)) ∧
    (∀ i : Fin 4, readReg s (0x94 + i.val) = some (s.guess[i.val].setWidth 16)) ∧
    readReg s 0x98 = some (s.disp.setWidth 16)

/-! ### Game orchestrator -/

/-- R190, R139: the whole effect of `FSM.SETUP`; `IC_PND`, the run bit, the display, `fpc`, `hpc` and the other timers stay.
Timer 0's divider, counts and compares are the one-second row of R161, a parameter at its default (log 7). -/
def Obligations.SetupEstablishesTheGameState : Prop :=
  ∀ s : State, exec .fsmSetup s = .next { s with
    rb := { startIdx := 0#2, endIdx := 0#2, full := false, cap := 4#3, buf := #v[0#8, 0#8, 0#8, 0#8] }
    pwd := #v[0#8, 0#8, 0#8, 0#8]
    guess := #v[0#8, 0#8, 0#8, 0#8]
    inputDone := false
    showDone := false
    showWatermark := 0#8
    target := .tNone
    played := 0#8
    termSeen := false
    ncap := 0#3
    gs := .init
    ic := { irqEn := true, fiqEn := false, vectored := true, msk := 0xFE#8, mod := 0x00#8, pnd := s.ic.pnd,
            vec := (s.ic.vec.set 0 .vTmr).set 6 .vKey }
    psc := s.psc.set 0 0xFF#8
    tm := s.tm.set 0
      { div := .div4, mode := .reload, run := s.tm[0].run, cntb := 62500#16, cmpb := 1#16, rld := 62500#16,
        cmp := 1#16, cnt := 62500#16 }
    res := some 0#32 }

/-- R191, R193, R194: acceptance of `FSM.LOOP` writes only `fpc`, by `gs`; the two display steps emit their glyph and go on to
the capture. The glyphs are the parameters of R9 (log 7). -/
def Obligations.LoopAcceptanceAndDisplaySteps : Prop :=
  ∀ s : State,
    (s.fpc = .idle → exec .fsmLoop s = .next { s with
      fpc := match s.gs with
        | .init => .initDisp
        | .showPassword => .pbWmark
        | .guess => .guessDisp
        | .showGuess => .pbWmark
        | .gameOver => .goCmp }) ∧
    (s.fpc = .initDisp → exec .fsmLoop s = .next { s with
      disp := Config.glyphIdle, trace := s.trace ++ [Config.glyphIdle], fpc := .capReset }) ∧
    (s.fpc = .guessDisp → exec .fsmLoop s = .next { s with
      disp := Config.glyphPrompt, trace := s.trace ++ [Config.glyphPrompt], fpc := .capReset })

/-- R196 to R199: reset the buffer, clear the flag, unmask the key line, wait for the flag. That the wait is a poll, which
changes nothing while the flag is 0, is the model's choice (log 2). -/
def Obligations.CaptureStepsResetClearArmWait : Prop :=
  ∀ s : State,
    (s.fpc = .capReset → exec .fsmLoop s = .next { s with
      rb := { s.rb with startIdx := 0#2, endIdx := 0#2, full := false }, fpc := .capClear }) ∧
    (s.fpc = .capClear → exec .fsmLoop s = .next { s with inputDone := false, fpc := .capArm }) ∧
    (s.fpc = .capArm → ∃ v, (∀ k, lineBit v k = if k = 6 then false else lineBit s.ic.msk k) ∧
      exec .fsmLoop s = .next { s with ic := { s.ic with msk := v }, fpc := .capWait }) ∧
    (s.fpc = .capWait → exec .fsmLoop s =
      .next (if s.inputDone = true then { s with fpc := .capSize } else s))

/-- R200: the size is latched; at four keys the LOOP ends with the new `gs`, else the capture starts again. -/
def Obligations.CaptureEndsAtFourKeys : Prop :=
  ∀ s : State, s.fpc = .capSize → s.rb.Inv →
    exec .fsmLoop s = .next (
      if s.rb.contents.length = 4 then
        { s with
          ncap := 4#3
          gs := if s.gs = .init then .showPassword else .showGuess
          fpc := .idle
          res := some (if s.gs = .init then 1#32 else 3#32) }
      else { s with ncap := BitVec.ofNat 3 s.rb.contents.length, fpc := .capReset })

/-- R201 to R205: watermark, clear the flag, select the buffer, start timer 0, wait for the flag and end the LOOP. That the
wait is a poll, which changes nothing while the flag is 0, is the model's choice (log 2). -/
def Obligations.PlaybackStepsArmAndWait : Prop :=
  ∀ s : State,
    (s.fpc = .pbWmark → exec .fsmLoop s = .next { s with showWatermark := s.rb.cap.setWidth 8, fpc := .pbClear }) ∧
    (s.fpc = .pbClear → exec .fsmLoop s = .next { s with showDone := false, fpc := .pbTarget }) ∧
    (s.fpc = .pbTarget → exec .fsmLoop s = .next { s with
      target := if s.gs = .showPassword then .tPwd else .tGuess, fpc := .pbStart }) ∧
    (s.fpc = .pbStart → exec .fsmLoop s = .next { s with
      tm := s.tm.set 0 { s.tm[0] with run := true }, fpc := .pbWait }) ∧
    (s.fpc = .pbWait → exec .fsmLoop s = .next (
      if s.showDone = true then
        { s with
          gs := if s.gs = .showPassword then .guess else .gameOver
          fpc := .idle
          res := some (if s.gs = .showPassword then 2#32 else 4#32) }
      else s))

/-- R206: the four bytes are compared; match returns to `Init`, mismatch to `Guess`; the buffers are kept. -/
def Obligations.CompareDecidesTheNextRound : Prop :=
  ∀ s : State, s.fpc = .goCmp → exec .fsmLoop s = .next (
    if s.pwd = s.guess then
      { s with disp := Config.glyphMatch, trace := s.trace ++ [Config.glyphMatch], gs := .init, fpc := .idle,
               res := some 0#32 }
    else
      { s with disp := Config.glyphMismatch, trace := s.trace ++ [Config.glyphMismatch], gs := .guess, fpc := .idle,
               res := some 2#32 })

/-- R192, R30: `gs` changes only at the last micro-step of an `FSM.LOOP`, along the transition table, or by `FSM.SETUP` or
hardware reset. -/
def Obligations.GameStateFollowsTheTable : Prop :=
  ∀ s t : State, BlockInv s → step s = .next t → t.gs ≠ s.gs →
    (s.nextEvent = .rst ∧ t.gs = .init) ∨
    (s.nextEvent = .foreground ∧ s.hpc = .idle ∧ s.fpc = .idle ∧ t.gs = .init ∧
      ∃ w, s.port = some w ∧ decodeCommand w = .ok .fsmSetup) ∨
    (s.nextEvent = .foreground ∧ s.hpc = .idle ∧ t.fpc = .idle ∧ t.res = some ((gameCode t.gs).setWidth 32) ∧
      ((s.fpc = .capSize ∧ s.gs = .init ∧ t.gs = .showPassword) ∨
       (s.fpc = .pbWait ∧ s.gs = .showPassword ∧ t.gs = .guess) ∨
       (s.fpc = .capSize ∧ s.gs = .guess ∧ t.gs = .showGuess) ∨
       (s.fpc = .pbWait ∧ s.gs = .showGuess ∧ t.gs = .gameOver) ∨
       (s.fpc = .goCmp ∧ s.gs = .gameOver ∧ (t.gs = .init ∨ t.gs = .guess))))

/-! ### Handlers -/

/-- R262, R221, R223 to R225, R264: the entry of `key_isr`, its settle delays, its wait for release, and its exit: mask the
key line only after the terminator, clear its pending bit, return. That `exec` at `H_IDLE` is the entry (log 11) and that the
wait for release is a poll (log 2) are the model's choices. -/
def Obligations.KeyHandlerEntersWaitsAndReturns : Prop :=
  ∀ s : State,
    (s.hpc = .idle → exec .keyIsr s = .next { s with hpc := .kSettle1, termSeen := false }) ∧
    (s.hpc = .kSettle1 → exec .keyIsr s = .next { s with hpc := .kScan }) ∧
    (s.hpc = .kRelease → exec .keyIsr s = .next (if s.keyPin = true then { s with hpc := .kSettle2 } else s)) ∧
    (s.hpc = .kSettle2 → exec .keyIsr s = .next { s with hpc := .kExit }) ∧
    (s.hpc = .kExit → ∃ m p,
      (∀ k, lineBit m k = if k = 6 ∧ s.termSeen = true then true else lineBit s.ic.msk k) ∧
      (∀ k, lineBit p k = if k = 6 then false else lineBit s.ic.pnd k) ∧
      exec .keyIsr s = .next { s with ic := { s.ic with msk := m, pnd := p }, termSeen := false, hpc := .idle })

/-- R222: the terminator sets the flags, another key is put into the ring buffer, no key does nothing; then the wait for
release. The codes 15 and 16 are `KEY_TERM` and `KEY_NONE` of R8 (log 7). -/
def Obligations.KeyScanCapturesOrEnds : Prop :=
  ∀ s : State, s.hpc = .kScan →
    exec .keyIsr s = .next (
      if (kmScan s.kmRow).toNat = 15 then { s with inputDone := true, termSeen := true, hpc := .kRelease }
      else if (kmScan s.kmRow).toNat = 16 then { s with hpc := .kRelease }
      else { s with rb := s.rb.put ((kmScan s.kmRow).setWidth 8), hpc := .kRelease })

/-- R262, R229: the entry of `timer_isr`, and its exit, which acknowledges the playback timer's line and returns. That `exec`
at `H_IDLE` is the entry is the model's choice (log 11). -/
def Obligations.TimerHandlerEntersAndReturns : Prop :=
  ∀ s : State,
    (s.hpc = .idle → exec .timerIsr s = .next { s with hpc := .tBody }) ∧
    (s.hpc = .tExit → ∃ p, (∀ k, lineBit p k = if k = 0 then false else lineBit s.ic.pnd k) ∧
      exec .timerIsr s = .next { s with ic := { s.ic with pnd := p }, hpc := .idle })

/-- R228, R72: at the watermark the tick stops the timer, clears the count and sets the flag. Before it, the tick pops one
byte, stores it at offset `played` of the selected buffer (dropped at 4 and above), displays it and advances; on an empty
buffer it only advances. -/
def Obligations.TimerBodyPlaysOrCompletes : Prop :=
  ∀ s : State, s.hpc = .tBody →
    (s.played = s.showWatermark → exec .timerIsr s = .next { s with
      tm := s.tm.set 0 { s.tm[0] with run := false }, played := 0#8, showDone := true, hpc := .tExit }) ∧
    (s.played ≠ s.showWatermark → s.rb.isEmpty = true →
      exec .timerIsr s = .next { s with played := s.played + 1#8, hpc := .tExit }) ∧
    (s.played ≠ s.showWatermark → s.rb.isEmpty = false →
      let v := s.rb.buf[s.rb.endIdx.toNat]'s.rb.endIdx.isLt
      exec .timerIsr s = .next { s with
        rb := { s.rb with
          endIdx := BitVec.ofNat 2 ((s.rb.endIdx.toNat + 1) % s.rb.cap.toNat)
          full := false }
        pwd := if s.target = .tPwd then s.pwd.setIfInBounds s.played.toNat v else s.pwd
        guess := if s.target = .tGuess then s.guess.setIfInBounds s.played.toNat v else s.guess
        disp := v
        trace := s.trace ++ [v]
        played := s.played + 1#8
        hpc := .tExit })

/-- R230, R264: from its delivery `timer_isr` is back at `H_IDLE` after its two steps, its line acknowledged, the foreground
where it was. -/
def Obligations.TimerHandlerRunsToCompletion : Prop :=
  ∀ (s : State) (es : List Event), s.hpc = .idle → s.ic.dispatchable 0 = true → s.ic.vec[0] = .vTmr →
    s.sched = [.deliver 0, .handler, .handler] ++ es →
    ∃ t, runSteps 3 s = .next t ∧ t.hpc = .idle ∧ lineBit t.ic.pnd 0 = false ∧
      t.fpc = s.fpc ∧ t.gs = s.gs ∧ t.port = s.port ∧ t.sched = es ∧
      (s.played = s.showWatermark → t.showDone = true ∧ t.played = 0#8 ∧ t.tm[0].run = false ∧ t.trace = s.trace) ∧
      (s.played ≠ s.showWatermark → t.showDone = s.showDone ∧ t.played = s.played + 1#8 ∧
        t.tm[0].run = s.tm[0].run)

/-- What a whole run of `key_isr`, delivered at `s`, leaves in `t`: the handler idle, its line acknowledged, the key captured
or the capture ended, by the code scanned (R220, R222), and the foreground where it was (R264). The codes 15 and 16 are
`KEY_TERM` and `KEY_NONE` at their defaults (log 7). -/
structure Sys2Proof.KeyRunDone (s t : State) : Prop where
  idle : t.hpc = .idle ∧ t.termSeen = false
  acknowledged : lineBit t.ic.pnd 6 = false
  foreground : t.fpc = s.fpc ∧ t.gs = s.gs ∧ t.port = s.port
  terminator : (kmScan s.kmRow).toNat = 15 → t.inputDone = true ∧ lineBit t.ic.msk 6 = true ∧ t.rb = s.rb
  other : (kmScan s.kmRow).toNat ≠ 15 → t.inputDone = s.inputDone ∧ lineBit t.ic.msk 6 = false
  noKey : (kmScan s.kmRow).toNat = 16 → t.rb = s.rb
  key : (kmScan s.kmRow).toNat < 15 → t.rb = s.rb.put ((kmScan s.kmRow).setWidth 8)

/-- R230, R264, R220, R222, R223: from its delivery `key_isr` is back at `H_IDLE`, its work done: after its five steps when
the key is released by then; else, while the key is held, after as many polls of the release as the handler makes (log 2),
the release, and its last three steps. -/
def Obligations.KeyHandlerRunsToCompletion : Prop :=
  ∀ (s : State) (es : List Event), s.hpc = .idle → s.ic.dispatchable 6 = true → s.ic.vec[6] = .vKey →
    (s.keyPin = true → s.sched = [.deliver 6, .handler, .handler, .handler, .handler, .handler] ++ es →
      ∃ t, runSteps 6 s = .next t ∧ KeyRunDone s t ∧ t.sched = es) ∧
    (∀ (n : Nat) (rows : Vector Nibble 4), s.keyPin = false →
      s.sched = [.deliver 6, .handler, .handler] ++ List.replicate n .handler ++
        [.input rows true, .handler, .handler, .handler] ++ es →
      ∃ t, runSteps (n + 7) s = .next t ∧ KeyRunDone s t ∧ t.sched = es)

/-- R309, R306: while the key is held `key_isr` stays at its wait; no foreground step and no other handler runs, and only
hardware reset leaves the state. -/
def Obligations.HeldKeyBlocksEverything : Prop :=
  ∀ s t : State, s.hpc = .kRelease → s.keyPin = false → s.nextEvent ≠ .rst → step s = .next t →
    t.hpc = .kRelease ∧ t.fpc = s.fpc ∧ t.gs = s.gs ∧ t.rb = s.rb ∧ t.pwd = s.pwd ∧ t.guess = s.guess ∧
    t.inputDone = s.inputDone ∧ t.showDone = s.showDone ∧ t.termSeen = s.termSeen ∧ t.played = s.played ∧
    t.disp = s.disp ∧ t.trace = s.trace

/-! ### Who writes what -/

/-- R263, R32: a delivery or a handler step writes neither the foreground's position nor `gs`, `ncap`, `target`,
`show_watermark`, the global enables, the modes or the vector table. -/
def Obligations.HandlersLeaveTheForegroundAlone : Prop :=
  ∀ s t : State, (s.nextEvent = .handler ∨ ∃ l, s.nextEvent = .deliver l) → step s = .next t →
    t.fpc = s.fpc ∧ t.gs = s.gs ∧ t.ncap = s.ncap ∧ t.target = s.target ∧ t.showWatermark = s.showWatermark ∧
    t.ic.irqEn = s.ic.irqEn ∧ t.ic.fiqEn = s.ic.fiqEn ∧ t.ic.vectored = s.ic.vectored ∧ t.ic.mod = s.ic.mod ∧
    t.ic.vec = s.ic.vec ∧ t.psc = s.psc ∧ t.port = s.port ∧ t.res = none

/-- R257: a pending bit is cleared only by `IC.ACK` of its line, by a handler's exit step, or by hardware reset. -/
def Obligations.PendingBitsAreClearedOnlyByAcknowledge : Prop :=
  ∀ (s t : State) (l : Fin 8), step s = .next t → lineBit s.ic.pnd l = true → lineBit t.ic.pnd l = false →
    s.nextEvent = .rst ∨
    (s.nextEvent = .handler ∧ ((s.hpc = .kExit ∧ l = 6) ∨ (s.hpc = .tExit ∧ l = 0))) ∨
    (s.nextEvent = .foreground ∧ ∃ w a, s.port = some w ∧ decodeCommand w = .ok (.icAck a) ∧ a.toNat = l.val)

/-- R255, R256: a pending bit is set only by its line's source event, and a falling edge of `key_pin` always sets bit 6,
whatever the masks, modes and enables. -/
def Obligations.PendingBitsAreSetBySourceEvents : Prop :=
  (∀ (s t : State) (l : Fin 8), step s = .next t → lineBit s.ic.pnd l = false → lineBit t.ic.pnd l = true →
    (∃ k : Fin 6, s.nextEvent = .pulse k ∧ k.val = l.val ∧ s.tm[k.val].run = true ∧ s.tm[k.val].cnt.toNat ≤ 1) ∨
    (l = 6 ∧ s.keyPin = true ∧ ∃ rows, s.nextEvent = .input rows false)) ∧
  ∀ (s : State) (rows : Vector Nibble 4) (pin : Bool), s.nextEvent = .input rows pin →
    ∃ v, (∀ k, lineBit v k = if k = 6 ∧ s.keyPin = true ∧ pin = false then true else lineBit s.ic.pnd k) ∧
      step s = .next { s.consumeEvent with kmRow := rows, keyPin := pin, ic := { s.ic with pnd := v } }

/-- R37, R138, R23, R70: the vector table is written only by `FSM.SETUP` and hardware reset; the result buffers only by these
and by `timer_isr`'s body, which writes the selected one. -/
def Obligations.VectorsAndResultBuffersHaveTheirWritersOnly : Prop :=
  ∀ s t : State, step s = .next t →
    (t.ic.vec ≠ s.ic.vec →
      s.nextEvent = .rst ∨ (s.nextEvent = .foreground ∧ ∃ w, s.port = some w ∧ decodeCommand w = .ok .fsmSetup)) ∧
    (t.pwd ≠ s.pwd ∨ t.guess ≠ s.guess →
      s.nextEvent = .rst ∨
      (s.nextEvent = .foreground ∧ ∃ w, s.port = some w ∧ decodeCommand w = .ok .fsmSetup) ∨
      (s.nextEvent = .handler ∧ s.hpc = .tBody ∧ (t.pwd ≠ s.pwd → s.target = .tPwd) ∧
        (t.guess ≠ s.guess → s.target = .tGuess)))

/-- R24: who sets and who clears `input_done` and `show_done`. -/
def Obligations.FlagsHaveTheirWritersOnly : Prop :=
  ∀ s t : State, step s = .next t →
    (s.inputDone = false → t.inputDone = true → s.nextEvent = .handler ∧ s.hpc = .kScan) ∧
    (s.showDone = false → t.showDone = true → s.nextEvent = .handler ∧ s.hpc = .tBody) ∧
    (s.inputDone = true → t.inputDone = false → s.nextEvent = .rst ∨ (s.nextEvent = .foreground ∧ (s.fpc = .capClear ∨
      ∃ w, s.port = some w ∧ decodeCommand w = .ok .fsmSetup))) ∧
    (s.showDone = true → t.showDone = false → s.nextEvent = .rst ∨ (s.nextEvent = .foreground ∧ (s.fpc = .pbClear ∨
      ∃ w, s.port = some w ∧ decodeCommand w = .ok .fsmSetup)))

/-- R46: the display trace only grows, by at most the byte that `disp` then holds, except at hardware reset. -/
def Obligations.DisplayTraceOnlyGrows : Prop :=
  ∀ s t : State, step s = .next t → s.nextEvent ≠ .rst →
    (t.trace = s.trace ∧ t.disp = s.disp) ∨ t.trace = s.trace ++ [t.disp]

/-- R70, R71: the frame of the byte spaces. Every instruction but a put, `FSM.SETUP` and the handlers leaves every byte of
`BUF`, `PWD` and `GUESS`; a put leaves every byte but the one at `rb_start`. -/
def Obligations.ByteSpacesKeepWhatIsNotStored : Prop :=
  ∀ (i : Instr) (s t : State), exec i s = .next t →
    (i ≠ .fsmSetup → i ≠ .keyIsr → i ≠ .timerIsr → (∀ a, i ≠ .rbPut a) →
      ∀ sp k, memRead sp k t = memRead sp k s) ∧
    ((∃ a, i = .rbPut a) → ∀ sp k, ¬ (sp = .buf ∧ k = slot s.rb.startIdx) → memRead sp k t = memRead sp k s) ∧
    (i = .keyIsr → ∀ sp k, ¬ (s.hpc = .kScan ∧ sp = .buf ∧ k = slot s.rb.startIdx) →
      memRead sp k t = memRead sp k s) ∧
    (i = .timerIsr → ∀ sp k, ¬ (s.hpc = .tBody ∧ k.val = s.played.toNat ∧
        ((sp = .pwd ∧ s.target = .tPwd) ∨ (sp = .guess ∧ s.target = .tGuess))) →
      memRead sp k t = memRead sp k s)

/-! ### Reset and invariants -/

/-- R290: hardware reset puts every register at its reset value and empties the display trace, in any state; the inputs are whatever the environment
drives. That the waiting word survives is the model's choice (log 6). -/
def Obligations.HardwareResetReachesEveryRegister : Prop :=
  ∀ s : State, s.nextEvent = .rst →
    step s = .next { State.reset with
      trace := [], kmRow := s.kmRow, keyPin := s.keyPin, port := s.port, sched := s.consumeEvent.sched,
      tick := s.consumeEvent.tick }

/-- R290, R46, R51 and vector V-RST-1: after reset the display trace is empty, and what a read-back of every register number
but the inputs' shows. -/
def Obligations.ResetReadsBackItsValues : Prop :=
  State.reset.trace = [] ∧
  ∀ n : Fin 256, rangesOk (.sysRegrd (BitVec.ofNat 8 n.val)) → ¬ (0x70 ≤ n.val ∧ n.val ≤ 0x74) →
    readReg State.reset n.val = some (if n.val = 0x13 then 4#16 else if n.val = 0x21 then 0xFF#16 else 0#16)

/-- R22, R25, R28, R29, R153, R255, R262: the block's invariant holds after reset. -/
def Obligations.InvariantHoldsAtReset : Prop := BlockInv State.reset

/-- R22, R25, R28, R29, R153, R255, R262: whatever move comes next, the step keeps the block's invariant. -/
def Obligations.EveryStepKeepsTheInvariant : Prop :=
  ∀ s t : State, BlockInv s → step s = .next t → BlockInv t

/-- R139, R293: `FSM.SETUP` on an idle block whose timer 0 is stopped and not pending establishes the game's invariant. -/
def Obligations.SetupEstablishesTheGameInvariant : Prop :=
  ∀ s : State, BlockInv s → s.fpc = .idle → s.hpc = .idle → s.tm[0].run = false → lineBit s.ic.pnd 0 = false →
    (∀ w, s.port = some w → quietWord w = true) → ∃ t, exec .fsmSetup s = .next t ∧ GameInv t

/-- R209, R210, R305: in an undisturbed game every move of every agent keeps the game's invariant. -/
def Obligations.UndisturbedStepsKeepTheGameInvariant : Prop :=
  ∀ s t : State, GameInv s → quietEvent s.nextEvent = true → step s = .next t → GameInv t

/-- R208, R209: a playback of an undisturbed game plays the captured bytes. Its start takes them from the ring buffer; each
move keeps the sequence (bytes stored, then bytes left), and either advances `played` by one and displays exactly the byte at
that index, or completes the playback at four, or leaves `played` and the display; its end leaves the whole sequence in the
result buffer, the ring buffer empty, timer 0 stopped. -/
def Obligations.PlaybackPlaysTheCapturedBytes : Prop :=
  ∀ s t : State, GameInv s → quietEvent s.nextEvent = true → step s = .next t →
    (s.fpc = .pbStart → t.fpc = .pbWait → t.playbackBytes = s.rb.contents) ∧
    (s.fpc = .pbWait → t.fpc = .pbWait → t.playbackBytes = s.playbackBytes ∧
      ((∃ b, s.playbackBytes[s.played.toNat]? = some b ∧ t.played = s.played + 1#8 ∧ t.disp = b ∧
          t.trace = s.trace ++ [b]) ∨
        (s.played = 4#8 ∧ t.played = 0#8 ∧ s.showDone = false ∧ t.showDone = true ∧ t.disp = s.disp ∧
          t.trace = s.trace) ∨
        (t.played = s.played ∧ t.showDone = s.showDone ∧ t.disp = s.disp ∧ t.trace = s.trace))) ∧
    (s.fpc = .pbWait → t.fpc ≠ .pbWait → s.playbackBuffer.toList = s.playbackBytes ∧ t.pwd = s.pwd ∧
      t.guess = s.guess ∧ t.rb.isEmpty = true ∧ t.played = 0#8 ∧ t.tm[0].run = false ∧
      t.gs = if s.gs = .showPassword then .guess else .gameOver)
end

