-- ==== Sys2Proof/Laws/Bits.lean ====
section
/-! SUPPORT. The bits of a line register: what writing one does to each (R34 to R36, R138). -/

namespace Sys2Proof.Machine

@[simp] theorem lineBit_setLineBit (v : Byte) (l k : Fin 8) (b : Bool) :
    lineBit (setLineBit v l b) k = if k = l then b else lineBit v k := by
  revert l k b
  revert v
  unfold lineBit setLineBit
  intro v l k b
  cases b <;> fin_cases l <;> fin_cases k <;> simp

/-- Two line registers with the same eight bits are equal. -/
theorem lineReg_ext {v w : Byte} (h : ∀ l : Fin 8, lineBit v l = lineBit w l) : v = w := by
  apply BitVec.eq_of_getLsbD_eq
  intro i hi
  exact h ⟨i, hi⟩

end Sys2Proof.Machine
end

