-- ==== Sys2Proof/Laws/Encoding.lean ====
section
/-! SUPPORT. The fields of a command word (30_encoding.md R90): each reads back what was put there, and the four together
are the word. -/

namespace Sys2Proof

@[simp] theorem opField_commandWord (o a : Byte) (b c : Half) : opField (commandWord o a b c) = o := by
  unfold opField commandWord
  apply BitVec.eq_of_getLsbD_eq
  intro i hi
  simp
  grind

@[simp] theorem aField_commandWord (o a : Byte) (b c : Half) : aField (commandWord o a b c) = a := by
  unfold aField commandWord
  apply BitVec.eq_of_getLsbD_eq
  intro i hi
  simp
  grind

@[simp] theorem bField_commandWord (o a : Byte) (b c : Half) : bField (commandWord o a b c) = b := by
  unfold bField commandWord
  apply BitVec.eq_of_getLsbD_eq
  intro i hi
  simp
  grind

@[simp] theorem cField_commandWord (o a : Byte) (b c : Half) : cField (commandWord o a b c) = c := by
  unfold cField commandWord
  apply BitVec.eq_of_getLsbD_eq
  intro i hi
  simp
  grind

@[simp] theorem commandWord_fields (w : CommandWord) :
    commandWord (opField w) (aField w) (bField w) (cField w) = w := by
  unfold opField aField bField cField commandWord
  apply BitVec.eq_of_getLsbD_eq
  intro i hi
  simp
  grind

/-- What a decoded word is: a row of the opcode map, its unused fields zero, the instruction built from its fields. -/
theorem decodeCommand_ok_iff (w : CommandWord) (i : Instr) :
    decodeCommand w = .ok i ↔ ∃ r, opcodeRow (opField w) = some r ∧
      unusedZero r.format (aField w) (bField w) (cField w) = true ∧ r.build (aField w) (bField w) (cField w) = i := by
  unfold decodeCommand
  cases h : opcodeRow (opField w) with
  | none => simp
  | some r => cases hu : unusedZero r.format (aField w) (bField w) (cField w) <;> simp [hu]

/-- A row found for an opcode is a row of the map, for that opcode. -/
theorem opcodeRow_some {op : Byte} {r : OpcodeRow} (h : opcodeRow op = some r) : r ∈ opcodeMap ∧ r.op = op := by
  unfold opcodeRow at h
  exact ⟨List.mem_of_find?_eq_some h, by simpa using List.find?_some h⟩

/-- No command word stands for a handler: those are reached through the vector table only (R97, R98). -/
theorem decodeCommand_not_handler {w : CommandWord} {i : Instr} (h : decodeCommand w = .ok i) :
    i ≠ .keyIsr ∧ i ≠ .timerIsr := by
  obtain ⟨r, hr, -, rfl⟩ := (decodeCommand_ok_iff w i).mp h
  have hm := (opcodeRow_some hr).1
  clear hr h
  simp only [opcodeMap, opcodesSysRb, opcodesIc, opcodesTm, opcodesKmFsm, List.cons_append, List.nil_append,
    List.mem_cons, List.not_mem_nil, or_false] at hm
  rcases hm with h | h | h | h | h | h | h | h | h | h | h | h | h | h | h | h | h | h | h | h | h | h | h | h | h | h
    | h | h <;> subst h <;> exact ⟨nofun, nofun⟩

end Sys2Proof
end

