-- ==== Sys2Proof/Laws/State.lean ====
section
/-! SUPPORT. One lemma per field per named update of the state, each true by definition, so that no later proof unfolds an
update. -/

namespace Sys2Proof.Machine

@[simp] theorem State.withRes_rb (s : State) (r : ResultWord) : (s.withRes r).rb = s.rb := rfl
@[simp] theorem State.withRes_pwd (s : State) (r : ResultWord) : (s.withRes r).pwd = s.pwd := rfl
@[simp] theorem State.withRes_guess (s : State) (r : ResultWord) : (s.withRes r).guess = s.guess := rfl
@[simp] theorem State.withRes_inputDone (s : State) (r : ResultWord) : (s.withRes r).inputDone = s.inputDone := rfl
@[simp] theorem State.withRes_showDone (s : State) (r : ResultWord) : (s.withRes r).showDone = s.showDone := rfl
@[simp] theorem State.withRes_showWatermark (s : State) (r : ResultWord) : (s.withRes r).showWatermark = s.showWatermark := rfl
@[simp] theorem State.withRes_target (s : State) (r : ResultWord) : (s.withRes r).target = s.target := rfl
@[simp] theorem State.withRes_played (s : State) (r : ResultWord) : (s.withRes r).played = s.played := rfl
@[simp] theorem State.withRes_termSeen (s : State) (r : ResultWord) : (s.withRes r).termSeen = s.termSeen := rfl
@[simp] theorem State.withRes_ncap (s : State) (r : ResultWord) : (s.withRes r).ncap = s.ncap := rfl
@[simp] theorem State.withRes_gs (s : State) (r : ResultWord) : (s.withRes r).gs = s.gs := rfl
@[simp] theorem State.withRes_fpc (s : State) (r : ResultWord) : (s.withRes r).fpc = s.fpc := rfl
@[simp] theorem State.withRes_hpc (s : State) (r : ResultWord) : (s.withRes r).hpc = s.hpc := rfl
@[simp] theorem State.withRes_ic (s : State) (r : ResultWord) : (s.withRes r).ic = s.ic := rfl
@[simp] theorem State.withRes_psc (s : State) (r : ResultWord) : (s.withRes r).psc = s.psc := rfl
@[simp] theorem State.withRes_tm (s : State) (r : ResultWord) : (s.withRes r).tm = s.tm := rfl
@[simp] theorem State.withRes_kmRow (s : State) (r : ResultWord) : (s.withRes r).kmRow = s.kmRow := rfl
@[simp] theorem State.withRes_keyPin (s : State) (r : ResultWord) : (s.withRes r).keyPin = s.keyPin := rfl
@[simp] theorem State.withRes_disp (s : State) (r : ResultWord) : (s.withRes r).disp = s.disp := rfl
@[simp] theorem State.withRes_trace (s : State) (r : ResultWord) : (s.withRes r).trace = s.trace := rfl
@[simp] theorem State.withRes_port (s : State) (r : ResultWord) : (s.withRes r).port = s.port := rfl
@[simp] theorem State.withRes_res (s : State) (r : ResultWord) : (s.withRes r).res = some r := rfl
@[simp] theorem State.withRes_sched (s : State) (r : ResultWord) : (s.withRes r).sched = s.sched := rfl
@[simp] theorem State.withRes_tick (s : State) (r : ResultWord) : (s.withRes r).tick = s.tick := rfl

@[simp] theorem State.withRb_rb (s : State) (r : RingBuffer) : (s.withRb r).rb = r := rfl
@[simp] theorem State.withRb_pwd (s : State) (r : RingBuffer) : (s.withRb r).pwd = s.pwd := rfl
@[simp] theorem State.withRb_guess (s : State) (r : RingBuffer) : (s.withRb r).guess = s.guess := rfl
@[simp] theorem State.withRb_inputDone (s : State) (r : RingBuffer) : (s.withRb r).inputDone = s.inputDone := rfl
@[simp] theorem State.withRb_showDone (s : State) (r : RingBuffer) : (s.withRb r).showDone = s.showDone := rfl
@[simp] theorem State.withRb_showWatermark (s : State) (r : RingBuffer) : (s.withRb r).showWatermark = s.showWatermark := rfl
@[simp] theorem State.withRb_target (s : State) (r : RingBuffer) : (s.withRb r).target = s.target := rfl
@[simp] theorem State.withRb_played (s : State) (r : RingBuffer) : (s.withRb r).played = s.played := rfl
@[simp] theorem State.withRb_termSeen (s : State) (r : RingBuffer) : (s.withRb r).termSeen = s.termSeen := rfl
@[simp] theorem State.withRb_ncap (s : State) (r : RingBuffer) : (s.withRb r).ncap = s.ncap := rfl
@[simp] theorem State.withRb_gs (s : State) (r : RingBuffer) : (s.withRb r).gs = s.gs := rfl
@[simp] theorem State.withRb_fpc (s : State) (r : RingBuffer) : (s.withRb r).fpc = s.fpc := rfl
@[simp] theorem State.withRb_hpc (s : State) (r : RingBuffer) : (s.withRb r).hpc = s.hpc := rfl
@[simp] theorem State.withRb_ic (s : State) (r : RingBuffer) : (s.withRb r).ic = s.ic := rfl
@[simp] theorem State.withRb_psc (s : State) (r : RingBuffer) : (s.withRb r).psc = s.psc := rfl
@[simp] theorem State.withRb_tm (s : State) (r : RingBuffer) : (s.withRb r).tm = s.tm := rfl
@[simp] theorem State.withRb_kmRow (s : State) (r : RingBuffer) : (s.withRb r).kmRow = s.kmRow := rfl
@[simp] theorem State.withRb_keyPin (s : State) (r : RingBuffer) : (s.withRb r).keyPin = s.keyPin := rfl
@[simp] theorem State.withRb_disp (s : State) (r : RingBuffer) : (s.withRb r).disp = s.disp := rfl
@[simp] theorem State.withRb_trace (s : State) (r : RingBuffer) : (s.withRb r).trace = s.trace := rfl
@[simp] theorem State.withRb_port (s : State) (r : RingBuffer) : (s.withRb r).port = s.port := rfl
@[simp] theorem State.withRb_res (s : State) (r : RingBuffer) : (s.withRb r).res = s.res := rfl
@[simp] theorem State.withRb_sched (s : State) (r : RingBuffer) : (s.withRb r).sched = s.sched := rfl
@[simp] theorem State.withRb_tick (s : State) (r : RingBuffer) : (s.withRb r).tick = s.tick := rfl

@[simp] theorem State.withIc_rb (s : State) (c : IntCtl) : (s.withIc c).rb = s.rb := rfl
@[simp] theorem State.withIc_pwd (s : State) (c : IntCtl) : (s.withIc c).pwd = s.pwd := rfl
@[simp] theorem State.withIc_guess (s : State) (c : IntCtl) : (s.withIc c).guess = s.guess := rfl
@[simp] theorem State.withIc_inputDone (s : State) (c : IntCtl) : (s.withIc c).inputDone = s.inputDone := rfl
@[simp] theorem State.withIc_showDone (s : State) (c : IntCtl) : (s.withIc c).showDone = s.showDone := rfl
@[simp] theorem State.withIc_showWatermark (s : State) (c : IntCtl) : (s.withIc c).showWatermark = s.showWatermark := rfl
@[simp] theorem State.withIc_target (s : State) (c : IntCtl) : (s.withIc c).target = s.target := rfl
@[simp] theorem State.withIc_played (s : State) (c : IntCtl) : (s.withIc c).played = s.played := rfl
@[simp] theorem State.withIc_termSeen (s : State) (c : IntCtl) : (s.withIc c).termSeen = s.termSeen := rfl
@[simp] theorem State.withIc_ncap (s : State) (c : IntCtl) : (s.withIc c).ncap = s.ncap := rfl
@[simp] theorem State.withIc_gs (s : State) (c : IntCtl) : (s.withIc c).gs = s.gs := rfl
@[simp] theorem State.withIc_fpc (s : State) (c : IntCtl) : (s.withIc c).fpc = s.fpc := rfl
@[simp] theorem State.withIc_hpc (s : State) (c : IntCtl) : (s.withIc c).hpc = s.hpc := rfl
@[simp] theorem State.withIc_ic (s : State) (c : IntCtl) : (s.withIc c).ic = c := rfl
@[simp] theorem State.withIc_psc (s : State) (c : IntCtl) : (s.withIc c).psc = s.psc := rfl
@[simp] theorem State.withIc_tm (s : State) (c : IntCtl) : (s.withIc c).tm = s.tm := rfl
@[simp] theorem State.withIc_kmRow (s : State) (c : IntCtl) : (s.withIc c).kmRow = s.kmRow := rfl
@[simp] theorem State.withIc_keyPin (s : State) (c : IntCtl) : (s.withIc c).keyPin = s.keyPin := rfl
@[simp] theorem State.withIc_disp (s : State) (c : IntCtl) : (s.withIc c).disp = s.disp := rfl
@[simp] theorem State.withIc_trace (s : State) (c : IntCtl) : (s.withIc c).trace = s.trace := rfl
@[simp] theorem State.withIc_port (s : State) (c : IntCtl) : (s.withIc c).port = s.port := rfl
@[simp] theorem State.withIc_res (s : State) (c : IntCtl) : (s.withIc c).res = s.res := rfl
@[simp] theorem State.withIc_sched (s : State) (c : IntCtl) : (s.withIc c).sched = s.sched := rfl
@[simp] theorem State.withIc_tick (s : State) (c : IntCtl) : (s.withIc c).tick = s.tick := rfl

@[simp] theorem State.withTimer_rb (s : State) (t : Fin 6) (x : Timer) : (s.withTimer t x).rb = s.rb := rfl
@[simp] theorem State.withTimer_pwd (s : State) (t : Fin 6) (x : Timer) : (s.withTimer t x).pwd = s.pwd := rfl
@[simp] theorem State.withTimer_guess (s : State) (t : Fin 6) (x : Timer) : (s.withTimer t x).guess = s.guess := rfl
@[simp] theorem State.withTimer_inputDone (s : State) (t : Fin 6) (x : Timer) : (s.withTimer t x).inputDone = s.inputDone := rfl
@[simp] theorem State.withTimer_showDone (s : State) (t : Fin 6) (x : Timer) : (s.withTimer t x).showDone = s.showDone := rfl
@[simp] theorem State.withTimer_showWatermark (s : State) (t : Fin 6) (x : Timer) : (s.withTimer t x).showWatermark = s.showWatermark := rfl
@[simp] theorem State.withTimer_target (s : State) (t : Fin 6) (x : Timer) : (s.withTimer t x).target = s.target := rfl
@[simp] theorem State.withTimer_played (s : State) (t : Fin 6) (x : Timer) : (s.withTimer t x).played = s.played := rfl
@[simp] theorem State.withTimer_termSeen (s : State) (t : Fin 6) (x : Timer) : (s.withTimer t x).termSeen = s.termSeen := rfl
@[simp] theorem State.withTimer_ncap (s : State) (t : Fin 6) (x : Timer) : (s.withTimer t x).ncap = s.ncap := rfl
@[simp] theorem State.withTimer_gs (s : State) (t : Fin 6) (x : Timer) : (s.withTimer t x).gs = s.gs := rfl
@[simp] theorem State.withTimer_fpc (s : State) (t : Fin 6) (x : Timer) : (s.withTimer t x).fpc = s.fpc := rfl
@[simp] theorem State.withTimer_hpc (s : State) (t : Fin 6) (x : Timer) : (s.withTimer t x).hpc = s.hpc := rfl
@[simp] theorem State.withTimer_ic (s : State) (t : Fin 6) (x : Timer) : (s.withTimer t x).ic = s.ic := rfl
@[simp] theorem State.withTimer_psc (s : State) (t : Fin 6) (x : Timer) : (s.withTimer t x).psc = s.psc := rfl
@[simp] theorem State.withTimer_tm (s : State) (t : Fin 6) (x : Timer) : (s.withTimer t x).tm = s.tm.set t.val x := rfl
@[simp] theorem State.withTimer_kmRow (s : State) (t : Fin 6) (x : Timer) : (s.withTimer t x).kmRow = s.kmRow := rfl
@[simp] theorem State.withTimer_keyPin (s : State) (t : Fin 6) (x : Timer) : (s.withTimer t x).keyPin = s.keyPin := rfl
@[simp] theorem State.withTimer_disp (s : State) (t : Fin 6) (x : Timer) : (s.withTimer t x).disp = s.disp := rfl
@[simp] theorem State.withTimer_trace (s : State) (t : Fin 6) (x : Timer) : (s.withTimer t x).trace = s.trace := rfl
@[simp] theorem State.withTimer_port (s : State) (t : Fin 6) (x : Timer) : (s.withTimer t x).port = s.port := rfl
@[simp] theorem State.withTimer_res (s : State) (t : Fin 6) (x : Timer) : (s.withTimer t x).res = s.res := rfl
@[simp] theorem State.withTimer_sched (s : State) (t : Fin 6) (x : Timer) : (s.withTimer t x).sched = s.sched := rfl
@[simp] theorem State.withTimer_tick (s : State) (t : Fin 6) (x : Timer) : (s.withTimer t x).tick = s.tick := rfl

@[simp] theorem State.withFpc_rb (s : State) (p : Fpc) : (s.withFpc p).rb = s.rb := rfl
@[simp] theorem State.withFpc_pwd (s : State) (p : Fpc) : (s.withFpc p).pwd = s.pwd := rfl
@[simp] theorem State.withFpc_guess (s : State) (p : Fpc) : (s.withFpc p).guess = s.guess := rfl
@[simp] theorem State.withFpc_inputDone (s : State) (p : Fpc) : (s.withFpc p).inputDone = s.inputDone := rfl
@[simp] theorem State.withFpc_showDone (s : State) (p : Fpc) : (s.withFpc p).showDone = s.showDone := rfl
@[simp] theorem State.withFpc_showWatermark (s : State) (p : Fpc) : (s.withFpc p).showWatermark = s.showWatermark := rfl
@[simp] theorem State.withFpc_target (s : State) (p : Fpc) : (s.withFpc p).target = s.target := rfl
@[simp] theorem State.withFpc_played (s : State) (p : Fpc) : (s.withFpc p).played = s.played := rfl
@[simp] theorem State.withFpc_termSeen (s : State) (p : Fpc) : (s.withFpc p).termSeen = s.termSeen := rfl
@[simp] theorem State.withFpc_ncap (s : State) (p : Fpc) : (s.withFpc p).ncap = s.ncap := rfl
@[simp] theorem State.withFpc_gs (s : State) (p : Fpc) : (s.withFpc p).gs = s.gs := rfl
@[simp] theorem State.withFpc_fpc (s : State) (p : Fpc) : (s.withFpc p).fpc = p := rfl
@[simp] theorem State.withFpc_hpc (s : State) (p : Fpc) : (s.withFpc p).hpc = s.hpc := rfl
@[simp] theorem State.withFpc_ic (s : State) (p : Fpc) : (s.withFpc p).ic = s.ic := rfl
@[simp] theorem State.withFpc_psc (s : State) (p : Fpc) : (s.withFpc p).psc = s.psc := rfl
@[simp] theorem State.withFpc_tm (s : State) (p : Fpc) : (s.withFpc p).tm = s.tm := rfl
@[simp] theorem State.withFpc_kmRow (s : State) (p : Fpc) : (s.withFpc p).kmRow = s.kmRow := rfl
@[simp] theorem State.withFpc_keyPin (s : State) (p : Fpc) : (s.withFpc p).keyPin = s.keyPin := rfl
@[simp] theorem State.withFpc_disp (s : State) (p : Fpc) : (s.withFpc p).disp = s.disp := rfl
@[simp] theorem State.withFpc_trace (s : State) (p : Fpc) : (s.withFpc p).trace = s.trace := rfl
@[simp] theorem State.withFpc_port (s : State) (p : Fpc) : (s.withFpc p).port = s.port := rfl
@[simp] theorem State.withFpc_res (s : State) (p : Fpc) : (s.withFpc p).res = s.res := rfl
@[simp] theorem State.withFpc_sched (s : State) (p : Fpc) : (s.withFpc p).sched = s.sched := rfl
@[simp] theorem State.withFpc_tick (s : State) (p : Fpc) : (s.withFpc p).tick = s.tick := rfl

@[simp] theorem State.withHpc_rb (s : State) (p : Hpc) : (s.withHpc p).rb = s.rb := rfl
@[simp] theorem State.withHpc_pwd (s : State) (p : Hpc) : (s.withHpc p).pwd = s.pwd := rfl
@[simp] theorem State.withHpc_guess (s : State) (p : Hpc) : (s.withHpc p).guess = s.guess := rfl
@[simp] theorem State.withHpc_inputDone (s : State) (p : Hpc) : (s.withHpc p).inputDone = s.inputDone := rfl
@[simp] theorem State.withHpc_showDone (s : State) (p : Hpc) : (s.withHpc p).showDone = s.showDone := rfl
@[simp] theorem State.withHpc_showWatermark (s : State) (p : Hpc) : (s.withHpc p).showWatermark = s.showWatermark := rfl
@[simp] theorem State.withHpc_target (s : State) (p : Hpc) : (s.withHpc p).target = s.target := rfl
@[simp] theorem State.withHpc_played (s : State) (p : Hpc) : (s.withHpc p).played = s.played := rfl
@[simp] theorem State.withHpc_termSeen (s : State) (p : Hpc) : (s.withHpc p).termSeen = s.termSeen := rfl
@[simp] theorem State.withHpc_ncap (s : State) (p : Hpc) : (s.withHpc p).ncap = s.ncap := rfl
@[simp] theorem State.withHpc_gs (s : State) (p : Hpc) : (s.withHpc p).gs = s.gs := rfl
@[simp] theorem State.withHpc_fpc (s : State) (p : Hpc) : (s.withHpc p).fpc = s.fpc := rfl
@[simp] theorem State.withHpc_hpc (s : State) (p : Hpc) : (s.withHpc p).hpc = p := rfl
@[simp] theorem State.withHpc_ic (s : State) (p : Hpc) : (s.withHpc p).ic = s.ic := rfl
@[simp] theorem State.withHpc_psc (s : State) (p : Hpc) : (s.withHpc p).psc = s.psc := rfl
@[simp] theorem State.withHpc_tm (s : State) (p : Hpc) : (s.withHpc p).tm = s.tm := rfl
@[simp] theorem State.withHpc_kmRow (s : State) (p : Hpc) : (s.withHpc p).kmRow = s.kmRow := rfl
@[simp] theorem State.withHpc_keyPin (s : State) (p : Hpc) : (s.withHpc p).keyPin = s.keyPin := rfl
@[simp] theorem State.withHpc_disp (s : State) (p : Hpc) : (s.withHpc p).disp = s.disp := rfl
@[simp] theorem State.withHpc_trace (s : State) (p : Hpc) : (s.withHpc p).trace = s.trace := rfl
@[simp] theorem State.withHpc_port (s : State) (p : Hpc) : (s.withHpc p).port = s.port := rfl
@[simp] theorem State.withHpc_res (s : State) (p : Hpc) : (s.withHpc p).res = s.res := rfl
@[simp] theorem State.withHpc_sched (s : State) (p : Hpc) : (s.withHpc p).sched = s.sched := rfl
@[simp] theorem State.withHpc_tick (s : State) (p : Hpc) : (s.withHpc p).tick = s.tick := rfl

@[simp] theorem State.emitDisplay_rb (s : State) (v : Byte) : (s.emitDisplay v).rb = s.rb := rfl
@[simp] theorem State.emitDisplay_pwd (s : State) (v : Byte) : (s.emitDisplay v).pwd = s.pwd := rfl
@[simp] theorem State.emitDisplay_guess (s : State) (v : Byte) : (s.emitDisplay v).guess = s.guess := rfl
@[simp] theorem State.emitDisplay_inputDone (s : State) (v : Byte) : (s.emitDisplay v).inputDone = s.inputDone := rfl
@[simp] theorem State.emitDisplay_showDone (s : State) (v : Byte) : (s.emitDisplay v).showDone = s.showDone := rfl
@[simp] theorem State.emitDisplay_showWatermark (s : State) (v : Byte) : (s.emitDisplay v).showWatermark = s.showWatermark := rfl
@[simp] theorem State.emitDisplay_target (s : State) (v : Byte) : (s.emitDisplay v).target = s.target := rfl
@[simp] theorem State.emitDisplay_played (s : State) (v : Byte) : (s.emitDisplay v).played = s.played := rfl
@[simp] theorem State.emitDisplay_termSeen (s : State) (v : Byte) : (s.emitDisplay v).termSeen = s.termSeen := rfl
@[simp] theorem State.emitDisplay_ncap (s : State) (v : Byte) : (s.emitDisplay v).ncap = s.ncap := rfl
@[simp] theorem State.emitDisplay_gs (s : State) (v : Byte) : (s.emitDisplay v).gs = s.gs := rfl
@[simp] theorem State.emitDisplay_fpc (s : State) (v : Byte) : (s.emitDisplay v).fpc = s.fpc := rfl
@[simp] theorem State.emitDisplay_hpc (s : State) (v : Byte) : (s.emitDisplay v).hpc = s.hpc := rfl
@[simp] theorem State.emitDisplay_ic (s : State) (v : Byte) : (s.emitDisplay v).ic = s.ic := rfl
@[simp] theorem State.emitDisplay_psc (s : State) (v : Byte) : (s.emitDisplay v).psc = s.psc := rfl
@[simp] theorem State.emitDisplay_tm (s : State) (v : Byte) : (s.emitDisplay v).tm = s.tm := rfl
@[simp] theorem State.emitDisplay_kmRow (s : State) (v : Byte) : (s.emitDisplay v).kmRow = s.kmRow := rfl
@[simp] theorem State.emitDisplay_keyPin (s : State) (v : Byte) : (s.emitDisplay v).keyPin = s.keyPin := rfl
@[simp] theorem State.emitDisplay_disp (s : State) (v : Byte) : (s.emitDisplay v).disp = v := rfl
@[simp] theorem State.emitDisplay_trace (s : State) (v : Byte) : (s.emitDisplay v).trace = s.trace ++ [v] := rfl
@[simp] theorem State.emitDisplay_port (s : State) (v : Byte) : (s.emitDisplay v).port = s.port := rfl
@[simp] theorem State.emitDisplay_res (s : State) (v : Byte) : (s.emitDisplay v).res = s.res := rfl
@[simp] theorem State.emitDisplay_sched (s : State) (v : Byte) : (s.emitDisplay v).sched = s.sched := rfl
@[simp] theorem State.emitDisplay_tick (s : State) (v : Byte) : (s.emitDisplay v).tick = s.tick := rfl

end Sys2Proof.Machine
end

