-- ==== Sys2Proof/Laws/Turns.lean ====
section
/-! SUPPORT. One step, taken apart: using a move up touches only the model's own fields (log 1), and what the moves of each
agent can do, said once. -/

namespace Sys2Proof.Machine

@[simp] theorem State.consumeEvent_rb (s : State) : s.consumeEvent.rb = s.rb := by
  unfold State.consumeEvent
  split <;> rfl

@[simp] theorem State.consumeEvent_pwd (s : State) : s.consumeEvent.pwd = s.pwd := by
  unfold State.consumeEvent
  split <;> rfl

@[simp] theorem State.consumeEvent_guess (s : State) : s.consumeEvent.guess = s.guess := by
  unfold State.consumeEvent
  split <;> rfl

@[simp] theorem State.consumeEvent_inputDone (s : State) : s.consumeEvent.inputDone = s.inputDone := by
  unfold State.consumeEvent
  split <;> rfl

@[simp] theorem State.consumeEvent_showDone (s : State) : s.consumeEvent.showDone = s.showDone := by
  unfold State.consumeEvent
  split <;> rfl

@[simp] theorem State.consumeEvent_showWatermark (s : State) : s.consumeEvent.showWatermark = s.showWatermark := by
  unfold State.consumeEvent
  split <;> rfl

@[simp] theorem State.consumeEvent_target (s : State) : s.consumeEvent.target = s.target := by
  unfold State.consumeEvent
  split <;> rfl

@[simp] theorem State.consumeEvent_played (s : State) : s.consumeEvent.played = s.played := by
  unfold State.consumeEvent
  split <;> rfl

@[simp] theorem State.consumeEvent_termSeen (s : State) : s.consumeEvent.termSeen = s.termSeen := by
  unfold State.consumeEvent
  split <;> rfl

@[simp] theorem State.consumeEvent_ncap (s : State) : s.consumeEvent.ncap = s.ncap := by
  unfold State.consumeEvent
  split <;> rfl

@[simp] theorem State.consumeEvent_gs (s : State) : s.consumeEvent.gs = s.gs := by
  unfold State.consumeEvent
  split <;> rfl

@[simp] theorem State.consumeEvent_fpc (s : State) : s.consumeEvent.fpc = s.fpc := by
  unfold State.consumeEvent
  split <;> rfl

@[simp] theorem State.consumeEvent_hpc (s : State) : s.consumeEvent.hpc = s.hpc := by
  unfold State.consumeEvent
  split <;> rfl

@[simp] theorem State.consumeEvent_ic (s : State) : s.consumeEvent.ic = s.ic := by
  unfold State.consumeEvent
  split <;> rfl

@[simp] theorem State.consumeEvent_psc (s : State) : s.consumeEvent.psc = s.psc := by
  unfold State.consumeEvent
  split <;> rfl

@[simp] theorem State.consumeEvent_tm (s : State) : s.consumeEvent.tm = s.tm := by
  unfold State.consumeEvent
  split <;> rfl

@[simp] theorem State.consumeEvent_kmRow (s : State) : s.consumeEvent.kmRow = s.kmRow := by
  unfold State.consumeEvent
  split <;> rfl

@[simp] theorem State.consumeEvent_keyPin (s : State) : s.consumeEvent.keyPin = s.keyPin := by
  unfold State.consumeEvent
  split <;> rfl

@[simp] theorem State.consumeEvent_disp (s : State) : s.consumeEvent.disp = s.disp := by
  unfold State.consumeEvent
  split <;> rfl

@[simp] theorem State.consumeEvent_trace (s : State) : s.consumeEvent.trace = s.trace := by
  unfold State.consumeEvent
  split <;> rfl

@[simp] theorem State.consumeEvent_port (s : State) : s.consumeEvent.port = s.port := by
  unfold State.consumeEvent
  split <;> rfl

@[simp] theorem State.consumeEvent_res (s : State) : s.consumeEvent.res = none := by
  unfold State.consumeEvent
  split <;> rfl

/-- Everything a foreground turn can do: hold, find nothing to do, accept the waiting word, or go on with `FSM.LOOP`
(R101, R195). -/
theorem foregroundTurn_cases {s t : State} (h : foregroundTurn s = .next t) :
    (t = s ∧ (s.hpc ≠ .idle ∨ (s.hpc = .idle ∧ s.fpc = .idle ∧ s.port = none))) ∨
    (s.hpc = .idle ∧ s.fpc = .idle ∧ ∃ w, s.port = some w ∧ accept w { s with port := none } = .next t) ∨
    (s.hpc = .idle ∧ s.fpc ≠ .idle ∧ t = loopStep s) := by
  unfold foregroundTurn at h
  split at h
  · rename_i hh
    split at h
    · rename_i hf
      split at h
      · rename_i w hw
        exact .inr (.inl ⟨hh, hf, w, hw, h⟩)
      · cases h
        exact .inl ⟨rfl, .inr ⟨hh, hf, ‹_›⟩⟩
    · rename_i hf
      cases h
      exact .inr (.inr ⟨hh, hf, rfl⟩)
  · cases h
    exact .inl ⟨rfl, .inl ‹_›⟩

/-- Everything a handler turn can do (R230). -/
theorem handlerTurn_cases {s t : State} (h : handlerTurn s = .next t) :
    (contextOf s.hpc = .fg ∧ t = s) ∨ (contextOf s.hpc = .key ∧ t = keyStep s) ∨
      (contextOf s.hpc = .tmr ∧ t = timerStep s) := by
  unfold handlerTurn at h
  split at h <;> cases h <;> simp [*]

/-- Everything a delivery can do (R260, R262): nothing, or the entry of the registered handler. -/
theorem deliverTurn_cases {l : Fin 8} {s t : State} (h : deliverTurn l s = .next t) :
    t = s ∨ (s.hpc = .idle ∧ s.ic.dispatchable l = true ∧
      ((s.ic.vec[l.val] = .vKey ∧ t = takeInterrupt .vKey s) ∨
        (s.ic.vec[l.val] = .vTmr ∧ t = takeInterrupt .vTmr s))) := by
  unfold deliverTurn at h
  split at h
  · rename_i hd
    cases hv : s.ic.vec[l.val] <;> simp [hv, vecCode, decodeVector, exec, execKeyIsr, execTimerIsr, keyStep, timerStep, hd.1] at h
    · exact .inl h.symm
    · exact .inr ⟨hd.1, hd.2, .inl ⟨rfl, h.symm⟩⟩
    · exact .inr ⟨hd.1, hd.2, .inr ⟨rfl, h.symm⟩⟩
  · cases h
    exact .inl rfl

/-- Everything a count pulse can do (R162, R163). -/
theorem pulse_cases (t : Fin 6) (s : State) :
    (s.tm[t.val].run = false ∧ pulse t s = s) ∨
    (s.tm[t.val].run = true ∧ 2 ≤ s.tm[t.val].cnt.toNat ∧
      pulse t s = s.withTimer t { s.tm[t.val] with cnt := s.tm[t.val].cnt - 1#16 }) ∨
    (s.tm[t.val].run = true ∧ s.tm[t.val].cnt.toNat ≤ 1 ∧ pulse t s = expire t s) := by
  have hb : s.tm[t.val].run = false ∨ s.tm[t.val].run = true := by cases s.tm[t.val].run <;> simp
  unfold pulse
  rcases hb with hr | hr
  · exact .inl ⟨hr, by simp [hr]⟩
  · simp only [hr, if_true]
    by_cases hc : s.tm[t.val].cnt.toNat ≤ 1
    · have h0 : (if s.tm[t.val].cnt = 0#16 then 0#16 else s.tm[t.val].cnt - 1#16) = 0#16 := by
        split_ifs
        · rfl
        · bv_omega
      exact .inr (.inr ⟨trivial, hc, by rw [if_pos h0]⟩)
    · have h0 : s.tm[t.val].cnt ≠ 0#16 := by
        intro e
        rw [e] at hc
        simp at hc
      have h1 : s.tm[t.val].cnt - 1#16 ≠ 0#16 := by bv_omega
      exact .inr (.inl ⟨trivial, by omega, by rw [if_neg h0, if_neg h1]⟩)

end Sys2Proof.Machine
end

