-- ==== Sys2Proof/Laws/Frames.lean ====
section
/-! SUPPORT. What each group of meanings can change: one frame lemma per group, which later proofs cite instead of unfolding
the meanings. A frame lemma writes the state after as a record update of the state before; the fields it does not name are
unchanged. -/

namespace Sys2Proof.Machine

/-- `TM.cfg_period` in closed form (R160): five operations on one timer and its prescaler. -/
theorem tmCfgPeriod_eq (t : Fin 6) (p : Period) (m : TimerMode) (s : State) :
    tmCfgPeriod t p m s = { s with
      psc := s.psc.set (Config.group t).val 0xFF#8
      tm := s.tm.set t.val
        { div := (periodRow p).div, mode := m, run := s.tm[t.val].run, cntb := (periodRow p).count,
          cmpb := (periodRow p).cmp, rld := (periodRow p).count, cmp := (periodRow p).cmp,
          cnt := (periodRow p).count } } := by
  simp [tmCfgPeriod, tmCommit, tmSetMode, tmSetCount, tmSetDivider, tmSetPrescaler, State.withTimer]

/-- The store of a played byte writes the result buffers only (R228). -/
theorem storePlayed_frame (v : Byte) (s : State) :
    storePlayed v s = { s with pwd := (storePlayed v s).pwd, guess := (storePlayed v s).guess } := by
  unfold storePlayed memWriteAt memWrite
  split <;> (try split) <;> rfl

/-- A byte is stored into the selected buffer only, at one element only (R72, R228). -/
theorem storePlayed_cells (v : Byte) (s : State) :
    (storePlayed v s).pwd = (if s.target = .tPwd then s.pwd.setIfInBounds s.played.toNat v else s.pwd) ∧
    (storePlayed v s).guess = (if s.target = .tGuess then s.guess.setIfInBounds s.played.toNat v else s.guess) := by
  unfold storePlayed memWriteAt memWrite
  cases s.target <;> simp
  all_goals split <;> simp [Vector.setIfInBounds, Array.setIfInBounds, Vector.set, *]

/-- The playback branch of the body of `timer_isr` in closed form (R228): on an empty buffer only `played`, else one byte to the
selected buffer and the display. -/
theorem playByte_eq (s : State) :
    playByte s = match s.rb.get with
      | none => { s with played := s.played + 1#8 }
      | some (v, r) => { s with
          rb := r
          pwd := if s.target = .tPwd then s.pwd.setIfInBounds s.played.toNat v else s.pwd
          guess := if s.target = .tGuess then s.guess.setIfInBounds s.played.toNat v else s.guess
          disp := v
          trace := s.trace ++ [v]
          played := s.played + 1#8 } := by
  unfold playByte
  cases s.rb.get with
  | none => rfl
  | some p =>
    obtain ⟨v, r⟩ := p
    have h := storePlayed_cells v (s.withRb r)
    dsimp only
    rw [storePlayed_frame, h.1, h.2]
    rfl

/-- The commands other than `FSM.SETUP` and the sequences: the ring buffer, the controller but its vectors, the timers and the
result word. -/
theorem exec_plain_frame {i : Instr} {s t : State} (h : exec i s = .next t) (h1 : i ≠ .fsmSetup) (h2 : i ≠ .fsmLoop)
    (h3 : i ≠ .keyIsr) (h4 : i ≠ .timerIsr) :
    t = { s with rb := t.rb, ic := { t.ic with vec := s.ic.vec }, psc := t.psc, tm := t.tm, res := t.res } := by
  cases i <;> first | contradiction | skip
  case tmCfgPeriod a b c =>
    simp only [exec, execTmCfgPeriod, done, failed, tmCfgPeriod_eq] at h
    (repeat' split at h) <;> cases h <;> rfl
  all_goals
    simp only [exec, execSysRegrd, execRbInit, execRbReset, execRbPut, execRbGet, execRbIsEmpty, execRbIsFull, execRbSize,
      execRbCapacity, execIcReset, execIcCfgGlobal, execIcCfgFiq, execIcSetMode, execIcEnable, execIcDisable, execIcAck,
      execTmSetPrescaler, execTmSetDivider, execTmSetCount, execTmSetMode, execTmCommit, execTmStart, execTmStop,
      execTmIsRunning, execKmScan, done, failed] at h
    (repeat' split at h) <;> cases h <;> rfl

/-- Items 1 to 7 of `FSM.SETUP` (R190): the controller reset, the buffer emptied at capacity 4, the shared state zero, the
playback timer's period configured. -/
theorem setupState_eq (s : State) :
    setupState s = { s with
      rb := { startIdx := 0#2, endIdx := 0#2, full := false, cap := 4#3, buf := #v[0#8, 0#8, 0#8, 0#8] }
      pwd := #v[0#8, 0#8, 0#8, 0#8]
      guess := #v[0#8, 0#8, 0#8, 0#8]
      inputDone := false
      showDone := false
      showWatermark := 0#8
      target := .tNone
      played := 0#8
      termSeen := false
      ncap := 0#3
      gs := .init
      ic := { s.ic with mod := 0x00#8, msk := 0xFF#8, vectored := false, irqEn := false, fiqEn := false }
      psc := s.psc.set 0 0xFF#8
      tm := s.tm.set 0
        { div := .div4, mode := .reload, run := s.tm[0].run, cntb := 62500#16, cmpb := 1#16, rld := 62500#16,
          cmp := 1#16, cnt := 62500#16 } } := by
  unfold setupState
  simp only [tmCfgPeriod_eq]
  rfl

/-- Items 8 to 12 of `FSM.SETUP` (R190): only the controller, its pending bits and unused enables as they were. -/
theorem setupInterrupts_eq (s : State) :
    setupInterrupts s = { s with
      ic := { irqEn := true, fiqEn := false, vectored := true, msk := setLineBit (setLineBit s.ic.msk 0 false) 6 true,
              mod := setLineBit (setLineBit s.ic.mod 0 false) 6 false, pnd := s.ic.pnd,
              vec := (s.ic.vec.set 0 .vTmr).set 6 .vKey } } := by
  simp [setupInterrupts, icRegister, icSetMode, icDisable, icEnable, icCfgFiq, icCfgGlobal, State.withIc,
    Config.playbackTimer, Config.lineKey, Config.lineTmr, lineModeBit]

/-- `FSM.LOOP`, one micro-step: never the result buffers, `played`, `term_seen`, `hpc`, the pending bits, the enables, the
modes, the vectors, the inputs (R191 to R206). -/
theorem loopStep_frame (s : State) :
    loopStep s = { s with
      rb := (loopStep s).rb
      inputDone := (loopStep s).inputDone
      showDone := (loopStep s).showDone
      showWatermark := (loopStep s).showWatermark
      target := (loopStep s).target
      ncap := (loopStep s).ncap
      gs := (loopStep s).gs
      fpc := (loopStep s).fpc
      ic := { s.ic with msk := (loopStep s).ic.msk }
      tm := (loopStep s).tm
      disp := (loopStep s).disp
      trace := (loopStep s).trace
      res := (loopStep s).res } := by
  unfold loopStep
  split
  all_goals first
    | rfl
    | (unfold stepCapWait; split <;> rfl)
    | (unfold stepCapSize; dsimp only; split <;> rfl)
    | (unfold stepPbWait; split <;> rfl)
    | (unfold stepGoCmp; split <;> rfl)

/-- `key_isr`, one micro-step: the ring buffer, the flags, its position, the mask and pending bits (R220 to R225). -/
theorem keyStep_frame (s : State) :
    keyStep s = { s with
      rb := (keyStep s).rb
      inputDone := (keyStep s).inputDone
      termSeen := (keyStep s).termSeen
      hpc := (keyStep s).hpc
      ic := { s.ic with msk := (keyStep s).ic.msk, pnd := (keyStep s).ic.pnd } } := by
  unfold keyStep
  split
  all_goals first
    | rfl
    | (unfold stepKScan; dsimp only; split_ifs <;> rfl)
    | (unfold stepKRelease; split <;> rfl)
    | (unfold stepKExit; dsimp only; split <;> rfl)

/-- `timer_isr`, one micro-step: the ring buffer, the result buffers, `show_done`, `played`, its position, the pending bits,
the timers, the display (R226 to R229). -/
theorem timerStep_frame (s : State) :
    timerStep s = { s with
      rb := (timerStep s).rb
      pwd := (timerStep s).pwd
      guess := (timerStep s).guess
      showDone := (timerStep s).showDone
      played := (timerStep s).played
      hpc := (timerStep s).hpc
      ic := { s.ic with pnd := (timerStep s).ic.pnd }
      tm := (timerStep s).tm
      disp := (timerStep s).disp
      trace := (timerStep s).trace } := by
  unfold timerStep
  split
  all_goals first
    | rfl
    | (unfold stepTBody playByte
       split
       · rfl
       · split
         · rw [storePlayed_frame]; rfl
         · rfl)

/-- Of these commands only `IC.ACK` writes a pending bit, and only clears its line's (R136, R257). -/
theorem exec_plain_pnd {i : Instr} {s t : State} (h : exec i s = .next t) (h1 : i ≠ .fsmSetup) (h2 : i ≠ .fsmLoop)
    (h3 : i ≠ .keyIsr) (h4 : i ≠ .timerIsr) :
    t.ic.pnd = s.ic.pnd ∨ ∃ (a : Byte) (l : Fin 8), i = .icAck a ∧ a.toNat = l.val ∧
      t.ic.pnd = setLineBit s.ic.pnd l false := by
  cases i <;> first | contradiction | skip
  case icAck a =>
    simp only [exec, execIcAck, done, failed] at h
    split at h <;> cases h
    · rename_i l hl
      refine .inr ⟨a, l, rfl, ?_, rfl⟩
      unfold lineOf at hl
      split at hl <;> cases hl
      rfl
    · exact .inl rfl
  case tmCfgPeriod a b c =>
    simp only [exec, execTmCfgPeriod, done, failed, tmCfgPeriod_eq] at h
    (repeat' split at h) <;> cases h <;> exact .inl rfl
  all_goals
    left
    simp only [exec, execSysRegrd, execRbInit, execRbReset, execRbPut, execRbGet, execRbIsEmpty, execRbIsFull, execRbSize,
      execRbCapacity, execIcReset, execIcCfgGlobal, execIcCfgFiq, execIcSetMode, execIcEnable, execIcDisable,
      execTmSetPrescaler, execTmSetDivider, execTmSetCount, execTmSetMode, execTmCommit, execTmStart, execTmStop,
      execTmIsRunning, execKmScan, done, failed] at h
    (repeat' split at h) <;> cases h <;> rfl

/-- Everything the acceptance of a word can do (R96, R101): answer `ILLEGAL`, run a plain command, run `FSM.SETUP`, or enter
`FSM.LOOP`. -/
theorem accept_cases {w : CommandWord} {s t : State} (h : accept w s = .next t) :
    ((∃ e, decodeCommand w = .error e) ∧ t = { s with res := some (errorWord .illegal) }) ∨
    (decodeCommand w = .ok .fsmSetup ∧ t = (setupInterrupts (setupState s)).withRes 0) ∨
    (decodeCommand w = .ok .fsmLoop ∧ t = loopStep s) ∨
    (∃ i, decodeCommand w = .ok i ∧ exec i s = .next t ∧ i ≠ .fsmSetup ∧ i ≠ .fsmLoop ∧
      t = { s with rb := t.rb, ic := { t.ic with vec := s.ic.vec }, psc := t.psc, tm := t.tm, res := t.res }) := by
  unfold accept at h
  cases hd : decodeCommand w with
  | error e =>
    rw [hd] at h
    cases h
    exact .inl ⟨⟨e, rfl⟩, rfl⟩
  | ok i =>
    rw [hd] at h
    by_cases h1 : i = .fsmSetup
    · subst h1
      cases h
      exact .inr (.inl ⟨rfl, rfl⟩)
    · by_cases h2 : i = .fsmLoop
      · subst h2
        cases h
        exact .inr (.inr (.inl ⟨rfl, rfl⟩))
      · obtain ⟨h3, h4⟩ := decodeCommand_not_handler hd
        exact .inr (.inr (.inr ⟨i, rfl, h, h1, h2, exec_plain_frame h h1 h2 h3 h4⟩))

/-- Everything one move can do, with the frame of each case: present, nothing, accept (illegal, `FSM.SETUP`, `FSM.LOOP`, a plain
command), go on with `FSM.LOOP`, with `key_isr`, with `timer_isr`, deliver `key_isr`, deliver `timer_isr`, count, expire, input
change, reset. -/
theorem turn_cases {e : Event} {s t : State} (h : turn e s = .next t) :
    (∃ w, e = .present w ∧ t = present w s) ∨
    (t = s) ∨
    (e = .foreground ∧ s.hpc = .idle ∧ s.fpc = .idle ∧ ∃ w, s.port = some w ∧ (
      ((∃ e, decodeCommand w = .error e) ∧ t = { s with port := none, res := some (errorWord .illegal) }) ∨
      (decodeCommand w = .ok .fsmSetup ∧ t = (setupInterrupts (setupState { s with port := none })).withRes 0) ∨
      (decodeCommand w = .ok .fsmLoop ∧ t = loopAccept { s with port := none }) ∨
      (∃ i, decodeCommand w = .ok i ∧ exec i { s with port := none } = .next t ∧ i ≠ .fsmSetup ∧ i ≠ .fsmLoop ∧
        t = { s with
          port := none, rb := t.rb, ic := { t.ic with vec := s.ic.vec }, psc := t.psc, tm := t.tm, res := t.res }))) ∨
    (e = .foreground ∧ s.hpc = .idle ∧ s.fpc ≠ .idle ∧ t = loopStep s) ∨
    (e = .handler ∧ contextOf s.hpc = .key ∧ t = keyStep s) ∨
    (e = .handler ∧ contextOf s.hpc = .tmr ∧ t = timerStep s) ∨
    (∃ l, e = .deliver l ∧ s.hpc = .idle ∧ s.ic.dispatchable l = true ∧ s.ic.vec[l.val] = .vKey ∧
      t = takeInterrupt .vKey s) ∨
    (∃ l, e = .deliver l ∧ s.hpc = .idle ∧ s.ic.dispatchable l = true ∧ s.ic.vec[l.val] = .vTmr ∧
      t = takeInterrupt .vTmr s) ∨
    (∃ k, e = .pulse k ∧ s.tm[k.val].run = true ∧ 2 ≤ s.tm[k.val].cnt.toNat ∧
      t = s.withTimer k { s.tm[k.val] with cnt := s.tm[k.val].cnt - 1#16 }) ∨
    (∃ k, e = .pulse k ∧ s.tm[k.val].run = true ∧ s.tm[k.val].cnt.toNat ≤ 1 ∧ t = expire k s) ∨
    (∃ rows pin, e = .input rows pin ∧ t = inputChange rows pin s) ∨
    (e = .rst ∧ t = hardwareReset s) := by
  cases e <;> simp only [turn] at h
  case present w => cases h; simp
  case foreground =>
    rcases foregroundTurn_cases h with ⟨rfl, _⟩ | ⟨h1, h2, w, hw, ha⟩ | ⟨h1, h2, rfl⟩
    · simp
    · right; right; left
      refine ⟨rfl, h1, h2, w, hw, ?_⟩
      rcases accept_cases ha with h | h | ⟨h, h'⟩ | h
      · exact .inl h
      · exact .inr (.inl h)
      · refine .inr (.inr (.inl ⟨h, ?_⟩)); rw [h']; unfold loopStep; simp [h2]
      · exact .inr (.inr (.inr h))
    · simp [h1, h2]
  case handler =>
    rcases handlerTurn_cases h with ⟨_, rfl⟩ | ⟨hc, rfl⟩ | ⟨hc, rfl⟩
    · exact .inr (.inl rfl)
    · exact .inr (.inr (.inr (.inr (.inl ⟨rfl, hc, rfl⟩))))
    · exact .inr (.inr (.inr (.inr (.inr (.inl ⟨rfl, hc, rfl⟩)))))
  case deliver l =>
    rcases deliverTurn_cases h with rfl | ⟨h1, h2, ⟨h3, rfl⟩ | ⟨h3, rfl⟩⟩ <;> simp [*]
  case pulse k =>
    cases h
    rcases pulse_cases k s with ⟨h, h'⟩ | ⟨h1, h2, h'⟩ | ⟨h1, h2, h'⟩ <;> rw [h'] <;> simp [*]
  case input rows pin =>
    cases h
    exact .inr (.inr (.inr (.inr (.inr (.inr (.inr (.inr (.inr (.inr (.inl ⟨rows, pin, rfl, rfl⟩))))))))))
  case rst => cases h; simp

end Sys2Proof.Machine
end

