-- ==== Sys2Proof/Laws/Micro.lean ====
section
/-! SUPPORT. The micro-steps taken apart: at each position of a sequencer, the one or two record updates the step can be
(44_game_fsm.md R193 to R206, 45_event_handlers.md R221 to R229). Later proofs cite these instead of unfolding a step. -/

namespace Sys2Proof.Machine

/-- The micro-steps of `key_isr` (R221 to R225). -/
theorem keyStep_cases {s : State} (h : contextOf s.hpc = .key) :
    (s.hpc = .kSettle1 ∧ keyStep s = { s with hpc := .kScan }) ∨
    (s.hpc = .kScan ∧ kmScan s.kmRow = Config.keyTerm ∧
      keyStep s = { s with inputDone := true, termSeen := true, hpc := .kRelease }) ∨
    (s.hpc = .kScan ∧ kmScan s.kmRow ≠ Config.keyTerm ∧ kmScan s.kmRow = Config.keyNone ∧
      keyStep s = { s with hpc := .kRelease }) ∨
    (s.hpc = .kScan ∧ kmScan s.kmRow ≠ Config.keyTerm ∧ kmScan s.kmRow ≠ Config.keyNone ∧
      keyStep s = { s with rb := s.rb.put ((kmScan s.kmRow).setWidth 8), hpc := .kRelease }) ∨
    (s.hpc = .kRelease ∧ s.keyPin = true ∧ keyStep s = { s with hpc := .kSettle2 }) ∨
    (s.hpc = .kRelease ∧ s.keyPin = false ∧ keyStep s = s) ∨
    (s.hpc = .kSettle2 ∧ keyStep s = { s with hpc := .kExit }) ∨
    (s.hpc = .kExit ∧ keyStep s = { s with
      ic := { s.ic with
        msk := if s.termSeen then setLineBit s.ic.msk 6 true else s.ic.msk
        pnd := setLineBit s.ic.pnd 6 false }
      termSeen := false
      hpc := .idle }) := by
  unfold keyStep
  cases hc : s.hpc <;> simp [hc, contextOf] at h ⊢
  · rfl
  · unfold stepKScan
    dsimp only
    by_cases h1 : kmScan s.kmRow = Config.keyTerm
    · simp [h1]
    · by_cases h2 : kmScan s.kmRow = Config.keyNone
      · have h3 : Config.keyNone ≠ Config.keyTerm := by decide
        simp [h2, h3, State.withHpc]
      · simp [h1, h2, State.withHpc, State.withRb]
  · unfold stepKRelease State.withHpc
    cases s.keyPin <;> simp
  · rfl
  · unfold stepKExit
    cases s.termSeen <;> rfl

/-- The micro-steps of `timer_isr` (R228, R229). -/
theorem timerStep_cases {s : State} (h : contextOf s.hpc = .tmr) :
    (s.hpc = .tBody ∧ s.played = s.showWatermark ∧ timerStep s = { s with
      tm := s.tm.set 0 { s.tm[0] with run := false }, played := 0#8, showDone := true, hpc := .tExit }) ∨
    (s.hpc = .tBody ∧ s.played ≠ s.showWatermark ∧ s.rb.get = none ∧
      timerStep s = { s with played := s.played + 1#8, hpc := .tExit }) ∨
    (s.hpc = .tBody ∧ s.played ≠ s.showWatermark ∧ ∃ v r, s.rb.get = some (v, r) ∧ timerStep s = { s with
      rb := r
      pwd := if s.target = .tPwd then s.pwd.setIfInBounds s.played.toNat v else s.pwd
      guess := if s.target = .tGuess then s.guess.setIfInBounds s.played.toNat v else s.guess
      disp := v
      trace := s.trace ++ [v]
      played := s.played + 1#8
      hpc := .tExit }) ∨
    (s.hpc = .tExit ∧ timerStep s = { s with
      ic := { s.ic with pnd := setLineBit s.ic.pnd 0 false }, hpc := .idle }) := by
  unfold timerStep
  cases hc : s.hpc <;> simp [hc, contextOf] at h ⊢
  · unfold stepTBody
    by_cases h1 : s.played = s.showWatermark
    · left
      rw [if_pos h1]
      exact ⟨h1, rfl⟩
    · right
      rw [if_neg h1, playByte_eq]
      cases hg : s.rb.get with
      | none => exact .inl ⟨h1, rfl, rfl⟩
      | some p => exact .inr ⟨h1, p.1, p.2, rfl, rfl⟩
  · rfl

/-- The micro-steps of `FSM.LOOP` after its acceptance (R193 to R206). -/
theorem loopStep_cases {s : State} (h : s.fpc ≠ .idle) :
    (s.fpc = .initDisp ∧ loopStep s = { s with
      disp := Config.glyphIdle, trace := s.trace ++ [Config.glyphIdle], fpc := .capReset }) ∨
    (s.fpc = .guessDisp ∧ loopStep s = { s with
      disp := Config.glyphPrompt, trace := s.trace ++ [Config.glyphPrompt], fpc := .capReset }) ∨
    (s.fpc = .capReset ∧ loopStep s = { s with rb := s.rb.reset, fpc := .capClear }) ∨
    (s.fpc = .capClear ∧ loopStep s = { s with inputDone := false, fpc := .capArm }) ∨
    (s.fpc = .capArm ∧ loopStep s = { s with
      ic := { s.ic with msk := setLineBit s.ic.msk 6 false }, fpc := .capWait }) ∨
    (s.fpc = .capWait ∧ s.inputDone = true ∧ loopStep s = { s with fpc := .capSize }) ∨
    (s.fpc = .capWait ∧ s.inputDone = false ∧ loopStep s = s) ∨
    (s.fpc = .capSize ∧ 4 ≤ s.rb.size ∧
      loopStep s = finishLoop (if s.gs = .init then .showPassword else .showGuess)
        { s with ncap := BitVec.ofInt 3 s.rb.size }) ∨
    (s.fpc = .capSize ∧ s.rb.size < 4 ∧
      loopStep s = { s with ncap := BitVec.ofInt 3 s.rb.size, fpc := .capReset }) ∨
    (s.fpc = .pbWmark ∧ loopStep s = { s with showWatermark := s.rb.cap.setWidth 8, fpc := .pbClear }) ∨
    (s.fpc = .pbClear ∧ loopStep s = { s with showDone := false, fpc := .pbTarget }) ∨
    (s.fpc = .pbTarget ∧ loopStep s = { s with
      target := if s.gs = .showPassword then .tPwd else .tGuess, fpc := .pbStart }) ∨
    (s.fpc = .pbStart ∧ loopStep s = { s with
      tm := s.tm.set 0 { s.tm[0] with run := true }, fpc := .pbWait }) ∨
    (s.fpc = .pbWait ∧ s.showDone = true ∧
      loopStep s = finishLoop (if s.gs = .showPassword then .guess else .gameOver) s) ∨
    (s.fpc = .pbWait ∧ s.showDone = false ∧ loopStep s = s) ∨
    (s.fpc = .goCmp ∧ ∃ g v, (g = .init ∨ g = .guess) ∧ loopStep s = finishLoop g (s.emitDisplay v)) := by
  unfold loopStep
  cases hc : s.fpc <;> simp [hc] at h ⊢
  · rfl
  · rfl
  · rfl
  · rfl
  · rfl
  · unfold stepCapWait State.withFpc
    cases s.inputDone <;> simp
  · unfold stepCapSize
    dsimp only
    by_cases h4 : 4 ≤ s.rb.size
    · left
      exact ⟨h4, if_pos h4⟩
    · right
      exact ⟨by omega, if_neg h4⟩
  · rfl
  · rfl
  · rfl
  · rfl
  · unfold stepPbWait
    cases s.showDone <;> simp
  · unfold stepGoCmp
    split
    · exact .inl ⟨_, rfl⟩
    · exact .inr ⟨_, rfl⟩

end Sys2Proof.Machine
end

