-- ==== Sys2Proof/Laws/Operands.lean ====
section
/-! SUPPORT. What each operand reader answers, in and out of its range (30_encoding.md R92, R93; 60_exceptions.md R251). -/

namespace Sys2Proof.Machine

theorem lineOf_eq {a : Byte} {l : Fin 8} (h : a.toNat = l.val) : lineOf a = some l := by
  unfold lineOf
  rw [dif_pos (by omega)]
  congr

theorem lineOf_none {a : Byte} (h : 8 ≤ a.toNat) : lineOf a = none := by
  unfold lineOf
  rw [dif_neg (by omega)]

theorem lineOf_isSome (a : Byte) : (lineOf a).isSome = decide (a.toNat ≤ 7) := by
  unfold lineOf
  by_cases h : a.toNat < 8
  · rw [dif_pos h, eq_comm]; simp; omega
  · rw [dif_neg h, eq_comm]; simp; omega

theorem timerOf_eq {a : Byte} {t : Fin 6} (h : a.toNat = t.val) : timerOf a = some t := by
  unfold timerOf
  rw [dif_pos (by omega)]
  congr

theorem timerOf_none {a : Byte} (h : 6 ≤ a.toNat) : timerOf a = none := by
  unfold timerOf
  rw [dif_neg (by omega)]

theorem timerOf_isSome (a : Byte) : (timerOf a).isSome = decide (a.toNat ≤ 5) := by
  unfold timerOf
  by_cases h : a.toNat < 6
  · rw [dif_pos h, eq_comm]; simp; omega
  · rw [dif_neg h, eq_comm]; simp; omega

theorem groupOf_eq {a : Byte} {g : Fin 3} (h : a.toNat = g.val) : groupOf a = some g := by
  unfold groupOf
  rw [dif_pos (by omega)]
  congr

theorem groupOf_none {a : Byte} (h : 3 ≤ a.toNat) : groupOf a = none := by
  unfold groupOf
  rw [dif_neg (by omega)]

theorem boolOf_none {n : Nat} (h : 2 ≤ n) : boolOf n = none := by
  match n, h with
  | n + 2, _ => rfl

theorem lineModeOf_none {n : Nat} (h : 2 ≤ n) : lineModeOf n = none := by
  match n, h with
  | n + 2, _ => rfl

theorem timerModeOf_none {n : Nat} (h : 2 ≤ n) : timerModeOf n = none := by
  match n, h with
  | n + 2, _ => rfl

theorem periodOf_none {n : Nat} (h : 4 ≤ n) : periodOf n = none := by
  match n, h with
  | n + 4, _ => rfl

theorem ratioOf_none {n : Nat} (h : 7 ≤ n) : ratioOf n = none := by
  match n, h with
  | n + 7, _ => rfl

theorem ratioOf_ratioCode (r : Ratio) : ratioOf (ratioCode r).toNat = some r := by cases r <;> rfl

/-- The ratio a valid divider operand names, and that its timer admits it (R152, R153). -/
theorem dividerOf_some {t : Fin 6} {b : Half} {r : Ratio} (h : dividerOf t b = some r) : ratioOk t r = true := by
  unfold dividerOf at h
  exact (Option.filter_eq_some_iff.mp h).2

/-- A capacity that `RB.INIT` accepts is 1 to 4 (R110). -/
theorem capacityOf_some {a : Byte} {c : BitVec 3} (h : capacityOf a = some c) :
    1 ≤ c.toNat ∧ c.toNat ≤ 4 ∧ c.toNat = a.toNat := by
  unfold capacityOf Config.rbSlots at h
  split at h
  · simp only [Option.some.injEq] at h
    subst h
    simp only [BitVec.toNat_setWidth]
    omega
  · cases h

end Sys2Proof.Machine
end

