-- ==== Sys2Proof/Laws/PerInstr.lean ====
section
/-! SUPPORT. One lemma per instruction: its encoding fits its row of the opcode map (30_encoding.md R91, R95, R98). -/

namespace Sys2Proof.Laws.OpcodeAssigned

/-- The encoding of a command carries an opcode of the map and zeros in the fields its format leaves unused; the encoding of
a handler is one of the two registered identifiers. -/
def Statement (i : Instr) : Prop :=
  match encode i with
  | .command w => ∃ r ∈ opcodeMap, r.op = opField w ∧ unusedZero r.format (aField w) (bField w) (cField w) = true
  | .vector id => id = 0b01#2 ∨ id = 0b10#2

/-- A command whose fields fit a row of the map satisfies the statement. -/
theorem of_row {i : Instr} {a : Byte} {b c : Half} (r : OpcodeRow) (hr : r ∈ opcodeMap)
    (he : encode i = .command (commandWord r.op a b c)) (hu : unusedZero r.format a b c = true) : Statement i := by
  unfold Statement
  rw [he]
  exact ⟨r, hr, by simp, by simpa using hu⟩

theorem sysRegrd (a : Byte) : Statement (.sysRegrd a) :=
  of_row opcodeMap[0] (by simp) rfl rfl

theorem rbInit (a : Byte) : Statement (.rbInit a) :=
  of_row opcodeMap[1] (by simp) rfl rfl

theorem rbReset : Statement (.rbReset) :=
  of_row opcodeMap[2] (by simp) rfl rfl

theorem rbPut (a : Byte) : Statement (.rbPut a) :=
  of_row opcodeMap[3] (by simp) rfl rfl

theorem rbGet : Statement (.rbGet) :=
  of_row opcodeMap[4] (by simp) rfl rfl

theorem rbIsEmpty : Statement (.rbIsEmpty) :=
  of_row opcodeMap[5] (by simp) rfl rfl

theorem rbIsFull : Statement (.rbIsFull) :=
  of_row opcodeMap[6] (by simp) rfl rfl

theorem rbSize : Statement (.rbSize) :=
  of_row opcodeMap[7] (by simp) rfl rfl

theorem rbCapacity : Statement (.rbCapacity) :=
  of_row opcodeMap[8] (by simp) rfl rfl

theorem icReset : Statement (.icReset) :=
  of_row opcodeMap[9] (by simp) rfl rfl

theorem icCfgGlobal (a : Byte) (b : Half) : Statement (.icCfgGlobal a b) :=
  of_row opcodeMap[10] (by simp) rfl rfl

theorem icCfgFiq (a : Byte) : Statement (.icCfgFiq a) :=
  of_row opcodeMap[11] (by simp) rfl rfl

theorem icSetMode (a : Byte) (b : Half) : Statement (.icSetMode a b) :=
  of_row opcodeMap[12] (by simp) rfl rfl

theorem icEnable (a : Byte) : Statement (.icEnable a) :=
  of_row opcodeMap[13] (by simp) rfl rfl

theorem icDisable (a : Byte) : Statement (.icDisable a) :=
  of_row opcodeMap[14] (by simp) rfl rfl

theorem icAck (a : Byte) : Statement (.icAck a) :=
  of_row opcodeMap[15] (by simp) rfl rfl

theorem tmSetPrescaler (a : Byte) (b : Half) : Statement (.tmSetPrescaler a b) :=
  of_row opcodeMap[16] (by simp) rfl rfl

theorem tmSetDivider (a : Byte) (b : Half) : Statement (.tmSetDivider a b) :=
  of_row opcodeMap[17] (by simp) rfl rfl

theorem tmSetCount (a : Byte) (b c : Half) : Statement (.tmSetCount a b c) :=
  of_row opcodeMap[18] (by simp) rfl rfl

theorem tmSetMode (a : Byte) (b : Half) : Statement (.tmSetMode a b) :=
  of_row opcodeMap[19] (by simp) rfl rfl

theorem tmCommit (a : Byte) : Statement (.tmCommit a) :=
  of_row opcodeMap[20] (by simp) rfl rfl

theorem tmStart (a : Byte) : Statement (.tmStart a) :=
  of_row opcodeMap[21] (by simp) rfl rfl

theorem tmStop (a : Byte) : Statement (.tmStop a) :=
  of_row opcodeMap[22] (by simp) rfl rfl

theorem tmIsRunning (a : Byte) : Statement (.tmIsRunning a) :=
  of_row opcodeMap[23] (by simp) rfl rfl

theorem tmCfgPeriod (a : Byte) (b c : Half) : Statement (.tmCfgPeriod a b c) :=
  of_row opcodeMap[24] (by simp) rfl rfl

theorem kmScan : Statement (.kmScan) :=
  of_row opcodeMap[25] (by simp) rfl rfl

theorem fsmSetup : Statement (.fsmSetup) :=
  of_row opcodeMap[26] (by simp) rfl rfl

theorem fsmLoop : Statement (.fsmLoop) :=
  of_row opcodeMap[27] (by simp) rfl rfl

theorem keyIsr : Statement .keyIsr := .inl rfl

theorem timerIsr : Statement .timerIsr := .inr rfl

end Sys2Proof.Laws.OpcodeAssigned
end

