-- ==== Sys2Proof/Laws/RingBuf.lean ====
section
/-! SUPPORT. The ring buffer (40_ring_buffer.md): every operation keeps the invariant of R22, and what each does to the
contents of R118. Proofs go over the forty index positions the invariant admits. -/

namespace Sys2Proof.Machine

/-- The four storage cells of a buffer by name. -/
theorem RingBuffer.buf_cells (v : Vector Byte 4) : ∃ a b c d, v = #v[a, b, c, d] :=
  ⟨v[0], v[1], v[2], v[3], by
    apply Vector.ext
    intro i hi
    match i, hi with
    | 0, _ => rfl
    | 1, _ => rfl
    | 2, _ => rfl
    | 3, _ => rfl⟩

/-- A property of the index registers holds of every buffer that meets the invariant as soon as it holds at the forty
positions the invariant admits. -/
theorem RingBuffer.inv_induction {P : BitVec 2 → BitVec 2 → Bool → BitVec 3 → Prop}
    (h : ∀ (c : Fin 4) (i j : Fin 4) (f : Bool), i.val < c.val + 1 → j.val < c.val + 1 → (f = true → i = j) →
      P (BitVec.ofNat 2 i.val) (BitVec.ofNat 2 j.val) f (BitVec.ofNat 3 (c.val + 1)))
    (r : RingBuffer) (hr : r.Inv) : P r.startIdx r.endIdx r.full r.cap := by
  obtain ⟨h1, h2, h3, h4, h5⟩ := hr
  have := h ⟨r.cap.toNat - 1, by omega⟩ ⟨r.startIdx.toNat, by omega⟩ ⟨r.endIdx.toNat, by omega⟩ r.full
    (by simp only; omega) (by simp only; omega) (by intro hf; rw [Fin.mk.injEq, h5 hf])
  have e : r.cap.toNat - 1 + 1 = r.cap.toNat := by omega
  simpa [e] using this

theorem RingBuffer.inc_lt (r : RingBuffer) (hr : r.Inv) (p : BitVec 2) : (r.inc p).toNat < r.cap.toNat := by
  have h := Nat.mod_lt (p.toNat + 1) (show 0 < r.cap.toNat from hr.cap_pos)
  unfold RingBuffer.inc
  rw [BitVec.toNat_ofNat]
  exact lt_of_le_of_lt (Nat.mod_le _ _) h

theorem RingBuffer.init_inv (r : RingBuffer) {c : BitVec 3} (h1 : 1 ≤ c.toNat) (h2 : c.toNat ≤ 4) :
    (r.init c).Inv :=
  ⟨h1, h2, h1, h1, fun h => nomatch h⟩

theorem RingBuffer.reset_inv (r : RingBuffer) (hr : r.Inv) : r.reset.Inv :=
  ⟨hr.cap_pos, hr.cap_le, hr.cap_pos, hr.cap_pos, fun h => nomatch h⟩

theorem RingBuffer.put_inv (r : RingBuffer) (hr : r.Inv) (b : Byte) : (r.put b).Inv := by
  unfold RingBuffer.put
  cases hf : r.full <;> simp only [if_true, if_false, Bool.false_eq_true]
  · exact ⟨hr.cap_pos, hr.cap_le, r.inc_lt hr _, hr.end_lt, by simp⟩
  · exact ⟨hr.cap_pos, hr.cap_le, r.inc_lt hr _, r.inc_lt hr _, by intro _; simp only; rw [hr.full_eq hf]⟩

theorem RingBuffer.get_inv (r : RingBuffer) (hr : r.Inv) {b : Byte} {q : RingBuffer} (hg : r.get = some (b, q)) :
    q.Inv := by
  unfold RingBuffer.get at hg
  split at hg
  · cases hg
  · simp only [Option.some.injEq, Prod.mk.injEq] at hg
    obtain ⟨_, rfl⟩ := hg
    exact ⟨hr.cap_pos, hr.cap_le, hr.start_lt, r.inc_lt hr _, by simp⟩

/-- The size is between 0 and the capacity, and says when the buffer is empty and when it is full (R22, R116). -/
theorem RingBuffer.size_bounds (r : RingBuffer) (hr : r.Inv) :
    0 ≤ r.size ∧ r.size ≤ r.cap.toNat ∧ (r.size = r.cap.toNat ↔ r.full = true) ∧
      (r.size = 0 ↔ r.isEmpty = true) := by
  obtain ⟨h1, h2, h3, h4, h5⟩ := hr
  unfold RingBuffer.size RingBuffer.isEmpty
  cases hf : r.full
  · have e : r.startIdx = r.endIdx ↔ r.startIdx.toNat = r.endIdx.toNat := BitVec.toNat_inj.symm
    simp only [Bool.false_eq_true, if_false]
    simp
    rw [e]
    refine ⟨?_, ?_, ?_, ?_⟩ <;> split <;> omega
  · simp
    omega

@[simp] theorem RingBuffer.contents_length (r : RingBuffer) : r.contents.length = r.size.toNat := by
  simp [RingBuffer.contents]

/-- A put appends, and drops the oldest byte of a full buffer (R118). -/
theorem RingBuffer.put_contents (r : RingBuffer) (hr : r.Inv) (b : Byte) :
    (r.put b).contents =
      if r.contents.length < r.cap.toNat then r.contents ++ [b] else r.contents.tail ++ [b] := by
  obtain ⟨s, e, f, c, v⟩ := r
  obtain ⟨x0, x1, x2, x3, rfl⟩ := RingBuffer.buf_cells v
  refine RingBuffer.inv_induction (P := fun s e f c =>
    (RingBuffer.put ⟨s, e, f, c, #v[x0, x1, x2, x3]⟩ b).contents =
      if (RingBuffer.contents ⟨s, e, f, c, #v[x0, x1, x2, x3]⟩).length < c.toNat then
        RingBuffer.contents ⟨s, e, f, c, #v[x0, x1, x2, x3]⟩ ++ [b]
      else (RingBuffer.contents ⟨s, e, f, c, #v[x0, x1, x2, x3]⟩).tail ++ [b]) ?_ _ hr
  intro c i j f hi hj hf
  fin_cases c <;> fin_cases i <;> first
    | (exfalso; revert hi; decide)
    | fin_cases j <;> first
      | (exfalso; revert hj; decide)
      | cases f <;> first
        | (exfalso; revert hf; decide)
        | with_unfolding_all rfl

/-- A get answers the oldest byte and leaves the rest; an empty buffer answers none (R118). -/
theorem RingBuffer.get_contents (r : RingBuffer) (hr : r.Inv) :
    r.get.map (fun p => (p.1, p.2.contents)) =
      match r.contents with
      | [] => none
      | b :: l => some (b, l) := by
  obtain ⟨s, e, f, c, v⟩ := r
  obtain ⟨x0, x1, x2, x3, rfl⟩ := RingBuffer.buf_cells v
  refine RingBuffer.inv_induction (P := fun s e f c =>
    (RingBuffer.get ⟨s, e, f, c, #v[x0, x1, x2, x3]⟩).map (fun p => (p.1, p.2.contents)) =
      match RingBuffer.contents ⟨s, e, f, c, #v[x0, x1, x2, x3]⟩ with
      | [] => none
      | b :: l => some (b, l)) ?_ _ hr
  intro c i j f hi hj hf
  fin_cases c <;> fin_cases i <;> first
    | (exfalso; revert hi; decide)
    | fin_cases j <;> first
      | (exfalso; revert hj; decide)
      | cases f <;> first
        | (exfalso; revert hf; decide)
        | with_unfolding_all rfl

theorem RingBuffer.isEmpty_iff (r : RingBuffer) (hr : r.Inv) : r.isEmpty = true ↔ r.contents = [] := by
  have h := r.size_bounds hr
  rw [← List.length_eq_zero_iff, r.contents_length, ← h.2.2.2]
  omega

@[simp] theorem RingBuffer.contents_reset (r : RingBuffer) : r.reset.contents = [] := rfl

@[simp] theorem RingBuffer.contents_init (r : RingBuffer) (c : BitVec 3) : (r.init c).contents = [] := rfl

@[simp] theorem RingBuffer.put_cap (r : RingBuffer) (b : Byte) : (r.put b).cap = r.cap := by
  unfold RingBuffer.put
  split <;> rfl

theorem RingBuffer.get_cap (r : RingBuffer) {b : Byte} {q : RingBuffer} (hg : r.get = some (b, q)) : q.cap = r.cap := by
  unfold RingBuffer.get at hg
  split at hg
  · cases hg
  · simp only [Option.some.injEq, Prod.mk.injEq] at hg
    obtain ⟨_, rfl⟩ := hg
    rfl

end Sys2Proof.Machine
end

