-- ==== Sys2Proof/Laws/Runs.lean ====
section
/-! SUPPORT. Several steps in a row: the two equations of `runSteps`, what a step is when its move is already fixed, and the
runs of the handlers' micro-steps that a whole handler run is made of (R230). -/

namespace Sys2Proof.Machine

@[simp] theorem runSteps_zero (s : State) : runSteps 0 s = .next s := rfl

/-- One step of any machine, then the rest. -/
theorem run_succ (M : Host.Core) (n : Nat) {s t : M.State} (h : M.step s = .next t) : M.run (n + 1) s = M.run n t := by
  simp only [Host.Core.run, h]

theorem runSteps_succ (n : Nat) {s t : State} (h : step s = .next t) : runSteps (n + 1) s = runSteps n t :=
  run_succ Sys2Proof.core n h

/-- A fixed move is used up and made. -/
theorem step_of_sched {s : State} {e : Event} {es : List Event} (h : s.sched = e :: es) :
    step s = turn e { s with sched := es, res := none } := by
  unfold step State.nextEvent State.consumeEvent
  rw [h]

/-- A fixed handler's turn of an active `key_isr` (R230). -/
theorem step_key {s : State} {es : List Event} (h : s.sched = .handler :: es) (hk : contextOf s.hpc = .key) :
    step s = .next (keyStep { s with sched := es, res := none }) := by
  rw [step_of_sched h]
  simp only [turn, handlerTurn, hk]
  rfl

/-- A fixed handler's turn of an active `timer_isr` (R230). -/
theorem step_timer {s : State} {es : List Event} (h : s.sched = .handler :: es) (hk : contextOf s.hpc = .tmr) :
    step s = .next (timerStep { s with sched := es, res := none }) := by
  rw [step_of_sched h]
  simp only [turn, handlerTurn, hk]
  rfl

/-- A fixed delivery of a dispatchable line enters the registered handler (R262). -/
theorem step_deliver {s : State} {l : Fin 8} {es : List Event} (h : s.sched = .deliver l :: es) (hi : s.hpc = .idle)
    (hd : s.ic.dispatchable l = true) :
    step s = .next (takeInterrupt s.ic.vec[l.val] { s with sched := es, res := none }) := by
  rw [step_of_sched h]
  simp only [turn, deliverTurn, hi, hd, and_self, if_true]
  cases hv : s.ic.vec[l.val] <;>
    simp [vecCode, decodeVector, exec, execKeyIsr, execTimerIsr, keyStep, timerStep, takeInterrupt]

/-- Where `H_K_SCAN` leaves the sequencer and the inputs (R222). -/
theorem stepKScan_keeps (s : State) : (stepKScan s).hpc = .kRelease ∧ (stepKScan s).keyPin = s.keyPin ∧
    (stepKScan s).sched = s.sched := by
  unfold stepKScan
  dsimp only
  split_ifs <;> exact ⟨rfl, rfl, rfl⟩

/-- The delivery of the key line, the first settle delay and the scan (R262, R221, R222). -/
theorem runSteps_key_scan (n : Nat) {s : State} {es : List Event} (hi : s.hpc = .idle)
    (hd : s.ic.dispatchable 6 = true) (hv : s.ic.vec[6] = .vKey)
    (hs : s.sched = .deliver 6 :: .handler :: .handler :: es) :
    runSteps (n + 3) s =
      runSteps n (stepKScan { s with sched := es, res := none, hpc := .kScan, termSeen := false }) := by
  have h0 : step s = .next
      { s with sched := .handler :: .handler :: es, res := none, hpc := .kSettle1, termSeen := false } := by
    rw [step_deliver hs hi hd]
    simp [hv, takeInterrupt]
  rw [runSteps_succ _ h0, runSteps_succ _ (step_key rfl rfl), runSteps_succ _ (step_key rfl rfl)]
  rfl

/-- While the key is held, any number of handler's turns only polls (R223). -/
theorem runSteps_key_polls (n m : Nat) (es : List Event) : ∀ s : State, s.hpc = .kRelease → s.keyPin = false →
    s.res = none → s.sched = List.replicate n .handler ++ es → runSteps (n + m) s = runSteps m { s with sched := es } := by
  induction n with
  | zero =>
    intro s _ _ _ hs
    have hs' : s.sched = es := by simpa using hs
    subst hs'
    rw [Nat.zero_add]
  | succ n ih =>
    intro s hp hk hr hs
    rw [List.replicate_succ, List.cons_append] at hs
    have h := step_key hs (by rw [hp]; rfl)
    have hk' : keyStep { s with sched := List.replicate n .handler ++ es, res := none } =
        { s with sched := List.replicate n .handler ++ es } := by
      rw [← hr]
      simp [keyStep, hp, stepKRelease, hk]
    rw [hk'] at h
    rw [show n + 1 + m = n + m + 1 by omega, runSteps_succ _ h]
    exact ih _ hp hk hr rfl

/-- From the released key to the return of `key_isr` (R223 to R225). -/
theorem runSteps_key_exit {s : State} {es : List Event} (hp : s.hpc = .kRelease) (hk : s.keyPin = true)
    (hs : s.sched = .handler :: .handler :: .handler :: es) :
    runSteps 3 s = .next { s with
      hpc := .idle
      termSeen := false
      res := none
      sched := es
      ic := { s.ic with
        msk := if s.termSeen then setLineBit s.ic.msk 6 true else s.ic.msk
        pnd := setLineBit s.ic.pnd 6 false } } := by
  have h1 : step s = .next { s with sched := .handler :: .handler :: es, res := none, hpc := .kSettle2 } := by
    rw [step_key hs (by rw [hp]; rfl)]
    simp [keyStep, hp, stepKRelease, hk, State.withHpc]
  rw [runSteps_succ _ h1, runSteps_succ _ (step_key rfl rfl), runSteps_succ _ (step_key rfl rfl)]
  simp only [keyStep, stepKSettle2, stepKExit, runSteps_zero]
  cases s.termSeen <;> rfl

end Sys2Proof.Machine
end

