-- ==== Sys2Proof/Tests/Slice0.lean ====
section
/-! SUPPORT. The model's own tests: expected results from 95_test_vectors.md (the vector is named) or from the rule cited, and
one witness for the hypotheses of each statement of Obligations.lean, a clause at a time. -/

namespace Sys2Proof.Tests

open Sys2Proof Sys2Proof.Machine

/-- What a step shows of its next state; nothing if it stops. -/
def got {α : Type} (o : StepResult) (f : State → α) : Option α :=
  match o with
  | .next t => some (f t)
  | .fault _ => none
  | .refused _ => none

/-- The state after some commands, as the host issues them. -/
def after (is : List Instr) (s : State) : State := (runCommands is s).getD s

/-- Reset with a ring buffer of capacity 4. -/
def withBuf (st en : BitVec 2) (full : Bool) (buf : Vector Byte 4) : State :=
  { State.reset with rb := { startIdx := st, endIdx := en, full := full, cap := 4#3, buf := buf } }

/-- Reset with these moves to come. -/
def withMoves (es : List Event) : State := { State.reset with sched := es }

/-- Reset with the sequencers at these positions. -/
def at_ (g : GameState) (f : Fpc) (h : Hpc) : State := { State.reset with gs := g, fpc := f, hpc := h }

/-- After `FSM.SETUP`. -/
def game : State := after [.fsmSetup] State.reset

/-- The ring buffer's index registers. -/
def idx (s : State) : BitVec 2 × BitVec 2 × Bool := (s.rb.startIdx, s.rb.endIdx, s.rb.full)

/-- `IC_CON`, `IC_MSK`, `IC_MOD`, `IC_PND`. -/
def icRegs (s : State) : BitVec 3 × Byte × Byte × Byte := (conCode s.ic, s.ic.msk, s.ic.mod, s.ic.pnd)

/-! ### Well-formedness: each check refuses an ill-formed term (R251) -/

theorem test_wellFormed_ring_buffer_and_register :
    (Instr.sysRegrd 0x18).wellFormed = false ∧ (Instr.sysRegrd 0x98).wellFormed = true ∧
    (Instr.rbInit 0).wellFormed = false ∧ (Instr.rbInit 5).wellFormed = false ∧ (Instr.rbInit 4).wellFormed = true := by
  decide

theorem test_wellFormed_controller :
    (Instr.icCfgGlobal 2 0).wellFormed = false ∧ (Instr.icCfgGlobal 1 2).wellFormed = false ∧
    (Instr.icCfgFiq 2).wellFormed = false ∧ (Instr.icSetMode 8 0).wellFormed = false ∧
    (Instr.icSetMode 0 2).wellFormed = false ∧ (Instr.icEnable 8).wellFormed = false ∧
    (Instr.icDisable 255).wellFormed = false ∧ (Instr.icAck 8).wellFormed = false ∧
    (Instr.icAck 7).wellFormed = true := by
  decide

theorem test_wellFormed_timers :
    (Instr.tmSetPrescaler 3 0).wellFormed = false ∧ (Instr.tmSetPrescaler 0 256).wellFormed = false ∧
    (Instr.tmSetDivider 6 0).wellFormed = false ∧ (Instr.tmSetDivider 0 7).wellFormed = false ∧
    (Instr.tmSetDivider 4 4).wellFormed = false ∧ (Instr.tmSetDivider 5 5).wellFormed = false ∧
    (Instr.tmSetDivider 4 6).wellFormed = false ∧ (Instr.tmSetDivider 4 5).wellFormed = true ∧
    (Instr.tmSetCount 6 0 0).wellFormed = false ∧ (Instr.tmSetMode 6 0).wellFormed = false ∧
    (Instr.tmSetMode 0 2).wellFormed = false ∧ (Instr.tmCommit 6).wellFormed = false ∧
    (Instr.tmStart 6).wellFormed = false ∧ (Instr.tmStop 6).wellFormed = false ∧
    (Instr.tmIsRunning 6).wellFormed = false ∧ (Instr.tmCfgPeriod 6 1 1).wellFormed = false ∧
    (Instr.tmCfgPeriod 0 4 1).wellFormed = false ∧ (Instr.tmCfgPeriod 0 1 2).wellFormed = false := by
  decide

/-! ### Decoding: words written out from the spec's encodings (P1, P2, P3, P5, R98) -/

theorem test_decode_register_and_ring_buffer :
    decodeCommand 0x014700000000 = .ok (.sysRegrd 0x47) ∧ decodeCommand 0x100400000000 = .ok (.rbInit 4) ∧
    decodeCommand 0x110000000000 = .ok .rbReset ∧ decodeCommand 0x12AA00000000 = .ok (.rbPut 0xAA) ∧
    decodeCommand 0x130000000000 = .ok .rbGet ∧ decodeCommand 0x140000000000 = .ok .rbIsEmpty ∧
    decodeCommand 0x150000000000 = .ok .rbIsFull ∧ decodeCommand 0x160000000000 = .ok .rbSize ∧
    decodeCommand 0x170000000000 = .ok .rbCapacity :=
  ⟨rfl, rfl, rfl, rfl, rfl, rfl, rfl, rfl, rfl⟩

theorem test_decode_controller :
    decodeCommand 0x200000000000 = .ok .icReset ∧ decodeCommand 0x210100010000 = .ok (.icCfgGlobal 1 1) ∧
    decodeCommand 0x220100000000 = .ok (.icCfgFiq 1) ∧ decodeCommand 0x230700010000 = .ok (.icSetMode 7 1) ∧
    decodeCommand 0x240600000000 = .ok (.icEnable 6) ∧ decodeCommand 0x25FF00000000 = .ok (.icDisable 255) ∧
    decodeCommand 0x260600000000 = .ok (.icAck 6) :=
  ⟨rfl, rfl, rfl, rfl, rfl, rfl, rfl⟩

theorem test_decode_timers :
    decodeCommand 0x300200FF0000 = .ok (.tmSetPrescaler 2 255) ∧
    decodeCommand 0x310400050000 = .ok (.tmSetDivider 4 5) ∧
    decodeCommand 0x320003E80002 = .ok (.tmSetCount 0 1000 2) ∧
    decodeCommand 0x330100000000 = .ok (.tmSetMode 1 0) ∧ decodeCommand 0x340100000000 = .ok (.tmCommit 1) ∧
    decodeCommand 0x350100000000 = .ok (.tmStart 1) ∧ decodeCommand 0x360000000000 = .ok (.tmStop 0) ∧
    decodeCommand 0x370600000000 = .ok (.tmIsRunning 6) ∧
    decodeCommand 0x380200010001 = .ok (.tmCfgPeriod 2 1 1) :=
  ⟨rfl, rfl, rfl, rfl, rfl, rfl, rfl, rfl, rfl⟩

theorem test_decode_matrix_game_and_handlers :
    decodeCommand 0x400000000000 = .ok .kmScan ∧ decodeCommand 0x500000000000 = .ok .fsmSetup ∧
    decodeCommand 0x510000000000 = .ok .fsmLoop ∧ decodeVector 0b01 = .ok .keyIsr ∧
    decodeVector 0b10 = .ok .timerIsr ∧ decodeVector 0b00 = .error (.noHandler 0) ∧
    decodeVector 0b11 = .error (.noHandler 3) :=
  ⟨rfl, rfl, rfl, rfl, rfl, rfl, rfl⟩

/-- V-ENC-2 to V-ENC-8, V-ENC-11. -/
theorem test_decode_illegal_words :
    decodeCommand 0x000000000000 = .error (.unassignedOpcode 0x00) ∧
    decodeCommand 0x110100000000 = .error (.unusedField 0x11) ∧
    decodeCommand 0x120700000001 = .error (.unusedField 0x12) ∧
    decodeCommand 0x210100010001 = .error (.unusedField 0x21) ∧
    decodeCommand 0x390000000000 = .error (.unassignedOpcode 0x39) ∧
    decodeCommand 0xFFFFFFFFFFFF = .error (.unassignedOpcode 0xFF) ∧
    decodeCommand 0x240900000001 = .error (.unusedField 0x24) ∧
    decodeCommand 0x510000000001 = .error (.unusedField 0x51) :=
  ⟨rfl, rfl, rfl, rfl, rfl, rfl, rfl, rfl⟩

theorem test_decodeTableWord :
    decodeTableWord 48 0x120700000000 = some (.rbPut 7) ∧ decodeTableWord 8 1 = some .keyIsr ∧
    decodeTableWord 8 2 = some .timerIsr ∧ decodeTableWord 8 3 = none ∧ decodeTableWord 48 0 = none :=
  ⟨rfl, rfl, rfl, rfl, rfl⟩

/-! ### A placed word is what the next step runs -/

theorem test_fetch_command :
    got (step (State.reset.withFetchWord 48 0x120700000000)) (fun t => (t.rb.buf[0], t.rb.startIdx, t.res)) =
      some (7#8, 1#2, some 0#32) := by
  decide

theorem test_fetch_handlers :
    got (step (State.reset.withFetchWord 8 1)) (·.hpc) = some .kSettle1 ∧
    got (step (State.reset.withFetchWord 8 2)) (·.hpc) = some .tBody := by
  decide

/-- V-ENC-8, V-ENC-9: `ILLEGAL` before `INVALID`. -/
theorem test_fetch_illegal_and_invalid :
    got (step (State.reset.withFetchWord 48 0x240900000001)) (fun t => (t.res, t.ic.msk)) =
      some (some 0xFFFFFFFD#32, 0xFF#8) ∧
    got (step (State.reset.withFetchWord 48 0x240900000000)) (fun t => (t.res, t.ic.msk)) =
      some (some 0xFFFFFFFF#32, 0xFF#8) := by
  decide

/-! ### Ring buffer -/

/-- V-RB-7, V-RB-8. -/
theorem test_rbInit :
    got (exec (.rbInit 0) State.reset) (fun t => (t.rb.cap, t.res)) = some (4#3, some 0xFFFFFFFF#32) ∧
    got (exec (.rbInit 5) State.reset) (fun t => (t.rb.cap, t.res)) = some (4#3, some 0xFFFFFFFF#32) ∧
    got (exec (.rbInit 1) State.reset) (fun t => (t.rb.cap, t.res)) = some (1#3, some 0#32) := by
  decide

/-- V-RB-9. -/
theorem test_rbReset :
    got (exec .rbReset (withBuf 3 3 true #v[1, 2, 3, 4])) (fun t => (idx t, t.rb.cap, t.rb.buf.toList)) =
      some ((0, 0, false), 4, [1, 2, 3, 4]) := by
  decide

/-- V-RB-3: overwrite the oldest. -/
theorem test_rbPut_full :
    got (exec (.rbPut 5) (withBuf 0 0 true #v[1, 2, 3, 4])) (fun t => (idx t, t.rb.buf.toList, t.rb.contents)) =
      some ((1, 1, true), [5, 2, 3, 4], [2, 3, 4, 5]) := by
  decide

/-- V-RB-10: capacity 3, the third put fills, slot 3 is never used. -/
theorem test_rbPut_capacity_three :
    idx (after [.rbInit 3, .rbPut 1, .rbPut 2, .rbPut 3] State.reset) = (0, 0, true) ∧
    (after [.rbInit 3, .rbPut 1, .rbPut 2, .rbPut 3, .rbPut 4] State.reset).rb.buf.toList = [4, 2, 3, 0] := by
  decide

/-- V-RB-5; P1 steps 11 and 12. -/
theorem test_rbGet :
    got (exec .rbGet (withBuf 2 2 false #v[1, 2, 3, 4])) (fun t => (idx t, t.res)) =
      some ((2, 2, false), some 0xFFFFFFFE#32) ∧
    got (exec .rbGet (withBuf 2 2 true #v[0x55, 0x66, 0x33, 0x44])) (fun t => (idx t, t.res)) =
      some ((2, 3, false), some 0x33#32) := by
  decide

theorem test_rbIsEmpty_rbIsFull :
    got (exec .rbIsEmpty (withBuf 2 2 false #v[1, 2, 3, 4])) (·.res) = some (some 1#32) ∧
    got (exec .rbIsEmpty (withBuf 2 2 true #v[1, 2, 3, 4])) (·.res) = some (some 0#32) ∧
    got (exec .rbIsFull (withBuf 2 2 true #v[1, 2, 3, 4])) (·.res) = some (some 1#32) := by
  decide

/-- V-RB-6. -/
theorem test_rbSize :
    got (exec .rbSize (withBuf 0 0 false #v[0, 0, 0, 0])) (·.res) = some (some 0#32) ∧
    got (exec .rbSize (withBuf 3 1 false #v[0, 0, 0, 0])) (·.res) = some (some 2#32) ∧
    got (exec .rbSize (withBuf 1 3 false #v[0, 0, 0, 0])) (·.res) = some (some 2#32) ∧
    got (exec .rbSize (withBuf 0 3 false #v[0, 0, 0, 0])) (·.res) = some (some 1#32) ∧
    got (exec .rbSize (withBuf 2 2 true #v[0, 0, 0, 0])) (·.res) = some (some 4#32) := by
  decide

theorem test_rbCapacity :
    got (exec .rbCapacity (after [.rbInit 3] State.reset)) (·.res) = some (some 3#32) := by
  decide

/-! ### Interrupt controller -/

/-- V-IC-1. -/
theorem test_icReset :
    got (exec .icReset { game with ic := { game.ic with fiqEn := true, msk := 0, mod := 0xFF, pnd := 0x41 } })
      (fun t => (icRegs t, vecWord t.ic)) = some ((0, 0xFF, 0x00, 0x41), 0x1002) := by
  decide

/-- V-IC-2, V-IC-3. -/
theorem test_icCfgGlobal :
    got (exec (.icCfgGlobal 1 0) { State.reset with ic := { State.reset.ic with fiqEn := true } })
      (fun t => conCode t.ic) = some 0b011 ∧
    got (exec (.icCfgGlobal 1 2) State.reset) (fun t => (conCode t.ic, t.res)) = some (0, some 0xFFFFFFFF) := by
  decide

/-- V-IC-4. -/
theorem test_icCfgFiq :
    got (exec (.icCfgFiq 1) game) (fun t => conCode t.ic) = some 0b111 ∧
    got (exec (.icCfgFiq 0) game) (fun t => conCode t.ic) = some 0b101 := by
  decide

/-- V-IC-5. -/
theorem test_icSetMode :
    got (exec (.icSetMode 7 1) State.reset) (fun t => (t.ic.mod, t.res)) = some (0x80, some 0) ∧
    got (exec (.icSetMode 8 0) State.reset) (fun t => (t.ic.mod, t.res)) = some (0, some 0xFFFFFFFF) := by
  decide

/-- V-IC-6, V-IC-7. -/
theorem test_icEnable_icDisable :
    got (exec (.icEnable 0) State.reset) (·.ic.msk) = some 0xFE ∧
    got (exec (.icEnable 0) game) (·.ic.msk) = some 0xFE ∧
    got (exec (.icDisable 0) game) (·.ic.msk) = some 0xFF ∧
    got (exec (.icDisable 255) game) (fun t => (t.ic.msk, t.res)) = some (0xFE, some 0xFFFFFFFF) := by
  decide

/-- V-IC-8. -/
theorem test_icAck :
    got (exec (.icAck 0) { game with ic := { game.ic with pnd := 0x41 } }) (·.ic.pnd) = some 0x40 ∧
    got (exec (.icAck 8) { game with ic := { game.ic with pnd := 0x41 } }) (fun t => (t.ic.pnd, t.res)) =
      some (0x41, some 0xFFFFFFFF) := by
  decide

/-- V-INT-1, V-INT-2, V-INT-4, V-INT-5. -/
theorem test_gating :
    let ic : IntCtl := { game.ic with pnd := 0x01 }
    (ic.dispatchable 0 = true ∧ ic.irqOut = true ∧ ic.fiqOut = false) ∧
    ({ ic with msk := 0xFF } : IntCtl).irqOut = false ∧
    (({ ic with vectored := false } : IntCtl).irqOut = true ∧
      ({ ic with vectored := false } : IntCtl).dispatchable 0 = false) ∧
    (({ ic with mod := 1, fiqEn := true } : IntCtl).fiqOut = true ∧
      ({ ic with mod := 1, fiqEn := true } : IntCtl).dispatchable 0 = false) := by
  decide

/-! ### Timers -/

/-- V-TM-1. -/
theorem test_tmSetPrescaler :
    got (exec (.tmSetPrescaler 2 255) State.reset) (·.psc.toList) = some [0, 0, 0xFF] ∧
    got (exec (.tmSetPrescaler 0 256) State.reset) (fun t => (t.psc.toList, t.res)) =
      some ([0, 0, 0], some 0xFFFFFFFF) := by
  decide

/-- V-TM-2, V-TM-3, V-TM-4. -/
theorem test_tmSetDivider :
    got (exec (.tmSetDivider 5 3) State.reset) (·.tm[5].div) = some .div16 ∧
    got (exec (.tmSetDivider 3 4) State.reset) (·.tm[3].div) = some .divx ∧
    got (exec (.tmSetDivider 4 4) State.reset) (fun t => (t.tm[4].div, t.res)) = some (.div2, some 0xFFFFFFFF) ∧
    got (exec (.tmSetDivider 4 5) State.reset) (·.tm[4].div) = some .ext4 ∧
    got (exec (.tmSetDivider 5 5) State.reset) (·.res) = some (some 0xFFFFFFFF) ∧
    got (exec (.tmSetDivider 5 6) State.reset) (·.tm[5].div) = some .ext5 := by
  decide

/-- V-TM-6. -/
theorem test_tmSetCount_then_tmCommit :
    let s := after [.tmCfgPeriod 0 3 1, .tmSetCount 0 1000 2] State.reset
    (s.tm[0].cntb = 0x03E8 ∧ s.tm[0].cmpb = 2 ∧ s.tm[0].rld = 0x7A12 ∧ s.tm[0].cnt = 0x7A12 ∧ s.tm[0].cmp = 1) ∧
    got (exec (.tmCommit 0) s) (fun t => (t.tm[0].rld, t.tm[0].cnt, t.tm[0].cmp)) = some (0x03E8, 0x03E8, 2) := by
  decide

theorem test_tmSetMode :
    got (exec (.tmSetMode 1 1) State.reset) (·.tm[1].mode) = some .reload ∧
    got (exec (.tmSetMode 1 2) State.reset) (·.res) = some (some 0xFFFFFFFF) := by
  decide

/-- V-TM-11, V-TM-12. -/
theorem test_tmStart_tmStop_tmIsRunning :
    let s := { State.reset with tm := State.reset.tm.set 3 { Timer.initial with cnt := 5 } }
    got (exec (.tmStart 3) s) (fun t => (t.tm[3].run, t.tm[3].cnt)) = some (true, 5) ∧
    got (exec (.tmStop 3) (after [.tmStart 3] s)) (fun t => (t.tm[3].run, t.tm[3].cnt)) = some (false, 5) ∧
    got (exec (.tmIsRunning 3) s) (·.res) = some (some 0) ∧
    got (exec (.tmIsRunning 3) (after [.tmStart 3] s)) (·.res) = some (some 1) ∧
    got (exec (.tmIsRunning 6) s) (·.res) = some (some 0xFFFFFFFF) := by
  decide

/-- V-TM-5. -/
theorem test_tmCfgPeriod :
    got (exec (.tmCfgPeriod 2 0 1) State.reset) (fun t => (t.psc.toList, t.tm[2])) =
      some ([0, 0xFF, 0], { div := .div8, mode := .reload, run := false, cntb := 0xF424, cmpb := 1, rld := 0xF424,
                            cmp := 1, cnt := 0xF424 }) := by
  decide

/-- V-TM-7. -/
theorem test_tmCfgPeriod_invalid :
    got (exec (.tmCfgPeriod 0 1 2) State.reset) (fun t => (t.psc.toList, t.res)) =
      some ([0, 0, 0], some 0xFFFFFFFF) := by
  decide

/-- V-TM-8 (the last pulse), V-TM-9 (an expiry), V-TM-10. -/
theorem test_pulse_expires :
    let one : State := { State.reset with tm := State.reset.tm.set 1 { Timer.initial with run := true, cnt := 1, rld := 3 } }
    let two : State := { State.reset with
      tm := State.reset.tm.set 0 { Timer.initial with run := true, cnt := 1, rld := 2, mode := .reload } }
    let zero : State := { State.reset with tm := State.reset.tm.set 0 { Timer.initial with run := true, mode := .reload } }
    ((pulse 1 one).tm[1].cnt = 0 ∧ (pulse 1 one).tm[1].run = false ∧ (pulse 1 one).ic.pnd = 0x02) ∧
    ((pulse 0 two).tm[0].cnt = 2 ∧ (pulse 0 two).tm[0].run = true ∧ (pulse 0 two).ic.pnd = 0x01) ∧
    ((pulse 0 zero).tm[0].cnt = 0 ∧ (pulse 0 zero).tm[0].run = true ∧ (pulse 0 zero).ic.pnd = 0x01) := by
  decide

/-! ### Key matrix and read-back -/

/-- V-KM-1 to V-KM-8. -/
theorem test_kmScan :
    kmScan #v[0xF, 0xF, 0xF, 0xF] = 16 ∧ kmScan #v[0xE, 0xF, 0xF, 0xF] = 0 ∧ kmScan #v[0xD, 0xF, 0xF, 0xF] = 1 ∧
    kmScan #v[0xF, 0xF, 0xD, 0xF] = 9 ∧ kmScan #v[0xF, 0xF, 0xF, 0x7] = 15 ∧ kmScan #v[0xF, 0xD, 0xE, 0xF] = 5 ∧
    kmScan #v[0xF, 0xF, 0xC, 0xF] = 8 ∧ kmScan #v[0x0, 0x0, 0x0, 0x0] = 0 := by
  decide

theorem test_kmScan_result :
    got (exec .kmScan { State.reset with kmRow := #v[0xF, 0xF, 0xD, 0xF] }) (·.res) = some (some 9) := by
  decide

/-- V-REG-1 to V-REG-6. -/
theorem test_sysRegrd :
    got (exec (.sysRegrd 0x13) State.reset) (·.res) = some (some 4) ∧
    got (exec (.sysRegrd 0x21) State.reset) (·.res) = some (some 0xFF) ∧
    got (exec (.sysRegrd 0x24) game) (·.res) = some (some 0x1002) ∧
    got (exec (.sysRegrd 0x47) game) (·.res) = some (some 0xF424) ∧
    got (exec (.sysRegrd 0x72) { game with kmRow := #v[0xF, 0xF, 0xB, 0xF] }) (·.res) = some (some 0xB) ∧
    got (exec (.sysRegrd 0x74) { game with keyPin := false }) (·.res) = some (some 0) := by
  decide

theorem test_sysRegrd_no_register :
    (∀ n ∈ ([0x00, 0x18, 0x25, 0x33, 0x75, 0x8A, 0x99, 0xFF] : List Byte),
      got (exec (.sysRegrd n) game) (·.res) = some (some 0xFFFFFFFF)) := by
  decide

/-! ### Game -/

/-- V-FSM-1. -/
theorem test_fsmSetup :
    got (exec .fsmSetup State.reset) (fun t => (icRegs t, vecWord t.ic)) =
      some ((0b101, 0xFE, 0x00, 0x00), 0x1002) ∧
    (game.psc.toList = [0xFF, 0, 0] ∧ game.gs = .init ∧ game.res = some 0) ∧
    game.tm[0] = { div := .div4, mode := .reload, run := false, cntb := 0xF424, cmpb := 1, rld := 0xF424, cmp := 1,
                   cnt := 0xF424 } := by
  decide

/-- R191, R200, V-FSM-7: the capture ends at four keys, at fewer it starts again. -/
theorem test_fsmLoop_capture :
    got (exec .fsmLoop (at_ .guess .idle .idle)) (fun t => (t.fpc, t.res)) = some (.guessDisp, none) ∧
    got (exec .fsmLoop { withBuf 0 0 true #v[1, 2, 3, 4] with fpc := .capSize })
      (fun t => (t.fpc, t.gs, t.ncap, t.res)) = some (.idle, .showPassword, 4, some 1) ∧
    got (exec .fsmLoop { withBuf 2 0 false #v[7, 8, 3, 4] with fpc := .capSize })
      (fun t => (t.fpc, t.gs, t.ncap, t.res)) = some (.capReset, .init, 2, none) := by
  decide

/-- V-FSM-6, V-FSM-8. -/
theorem test_fsmLoop_compare :
    let s := { at_ .gameOver .goCmp .idle with pwd := #v[1, 2, 3, 4], guess := #v[1, 2, 3, 4] }
    got (exec .fsmLoop s) (fun t => (t.gs, t.disp, t.res)) = some (.init, 0x0A, some 0) ∧
    got (exec .fsmLoop { s with guess := #v[1, 2, 3, 5] }) (fun t => (t.gs, t.disp, t.res, t.pwd.toList)) =
      some (.guess, 0x0E, some 2, [1, 2, 3, 4]) := by
  decide

/-! ### Handlers -/

/-- V-KEY-1 (the scan of key 3), V-KEY-2 (the terminator and the exit), V-KEY-3 (no key). -/
theorem test_keyIsr :
    let s := { game with hpc := .kScan, ic := { game.ic with msk := 0xBE, pnd := 0x40 } }
    got (exec .keyIsr { s with kmRow := #v[0x7, 0xF, 0xF, 0xF] }) (fun t => (t.rb.buf[0], t.rb.startIdx, t.inputDone)) =
      some (3, 1, false) ∧
    got (exec .keyIsr { s with kmRow := #v[0xF, 0xF, 0xF, 0x7] }) (fun t => (idx t, t.inputDone, t.termSeen)) =
      some ((0, 0, false), true, true) ∧
    got (exec .keyIsr s) (fun t => (idx t, t.inputDone, t.hpc)) = some ((0, 0, false), false, .kRelease) := by
  decide

theorem test_keyIsr_exit :
    got (exec .keyIsr { game with
      hpc := .kExit, termSeen := true, inputDone := true, ic := { game.ic with msk := 0xBE, pnd := 0x41 } })
      (fun t => (icRegs t, t.termSeen, t.hpc)) = some ((0b101, 0xFE, 0x00, 0x01), false, .idle) := by
  decide

/-- The start of V-TMR-1, the handler entered. -/
def ticking : State :=
  { withBuf 0 0 true #v[7, 8, 9, 1] with hpc := .tBody, showWatermark := 4, target := .tPwd }

/-- V-TMR-1, V-TMR-2, V-TMR-4, V-TMR-6. -/
theorem test_timerIsr :
    got (exec .timerIsr ticking) (fun t => (t.pwd[0], t.disp, t.played)) = some (7, 7, 1) ∧
    got (exec .timerIsr ticking) idx = some (0, 1, false) ∧
    got (exec .timerIsr { ticking with played := 4, tm := ticking.tm.set 0 { Timer.initial with run := true } })
      (fun t => (t.tm[0].run, t.played, t.showDone)) = some (false, 0, true) ∧
    got (exec .timerIsr { ticking with played := 1, rb := ticking.rb.reset }) (fun t => (t.pwd[1], t.trace, t.played)) =
      some (0, [], 2) ∧
    got (exec .timerIsr { ticking with played := 5 }) (fun t => (t.pwd.toList, t.disp, t.played)) =
      some ([0, 0, 0, 0], 7, 6) := by
  decide

/-- V-TMR-3 and the exit. -/
theorem test_timerIsr_no_target_and_exit :
    got (exec .timerIsr { withBuf 1 0 false #v[5, 0, 0, 0] with hpc := .tBody, showWatermark := 4, played := 2 })
      (fun t => (t.pwd.toList, t.guess.toList, t.disp, t.played)) = some ([0, 0, 0, 0], [0, 0, 0, 0], 5, 3) ∧
    got (exec .timerIsr { game with hpc := .tExit, ic := { game.ic with pnd := 0x41 } }) (fun t => (t.ic.pnd, t.hpc)) =
      some (0x40, .idle) := by
  decide

/-! ### Inputs and reset -/

/-- V-INT-9, V-INT-10. -/
theorem test_input_edges :
    got (step (withMoves [.input #v[0xF, 0xF, 0xF, 0xF] false])) (fun t => (t.ic.pnd, t.keyPin)) = some (0x40, false) ∧
    got (step { withMoves [.input #v[0xF, 0xF, 0xF, 0xF] true] with keyPin := false }) (·.ic.pnd) = some 0 := by
  decide

/-- R290: reset keeps the inputs only. -/
theorem test_hardware_reset :
    got (step { game with sched := [.rst], keyPin := false, played := 3, hpc := .kRelease })
      (fun t => (icRegs t, t.played, t.hpc, t.keyPin)) = some ((0, 0xFF, 0, 0), 0, .idle, false) := by
  decide

/-! ### Witnesses: for each statement with hypotheses, values that meet them together, each clause at its boundary values -/

/-- A word waits and the foreground moves next. -/
def waiting (w : CommandWord) : State := { withMoves [.foreground] with port := some w }

theorem witness_EncodeOfDecodeIsTheWord :
    decode (.command 0x3805000300FF) = .ok (.tmCfgPeriod 5 3 0xFF) ∧ decode (.vector 0b10) = .ok .timerIsr :=
  ⟨rfl, rfl⟩

theorem witness_MaskedWordSelectsItsCommand :
    maskTable.length = 28 ∧ (∃ row ∈ maskTable, (0x12FF00000000 : CommandWord) &&& row.mask = row.pattern) ∧
    ∃ row ∈ maskTable, (0x12FF00000001 : CommandWord) &&& row.mask ≠ row.pattern := by
  decide

theorem witness_IllegalWordAnswersIllegal :
    (∀ w, (waiting w).nextEvent = .foreground ∧ (waiting w).hpc = .idle ∧ (waiting w).fpc = .idle ∧
      (waiting w).port = some w) ∧
    (∀ row ∈ maskTable, (0x000000000000 : CommandWord) &&& row.mask ≠ row.pattern) ∧
    (∀ row ∈ maskTable, (0x120700000001 : CommandWord) &&& row.mask ≠ row.pattern) ∧
    (∀ row ∈ maskTable, (0xFFFFFFFFFFFF : CommandWord) &&& row.mask ≠ row.pattern) :=
  ⟨fun _ => ⟨rfl, rfl, rfl, rfl⟩, by simp [maskTable], by simp [maskTable], by simp [maskTable]⟩

theorem witness_StepRunsTheDecodedCommand :
    ((waiting 0x120700000000).nextEvent = .foreground ∧ (waiting 0x120700000000).hpc = .idle ∧
      (waiting 0x120700000000).fpc = .idle ∧ (waiting 0x120700000000).port = some 0x120700000000 ∧
      decodeCommand 0x120700000000 = .ok (.rbPut 7)) ∧
    (withMoves [.handler, .rst]).sched = .handler :: [.rst] ∧ State.reset.sched = [] :=
  ⟨⟨rfl, rfl, rfl, rfl, rfl⟩, rfl, rfl⟩

theorem witness_StepContinuesTheActiveSequencer :
    let f (p : Fpc) (h : Hpc) (e : Event) : State := { at_ .init p h with sched := [e] }
    ((f .goCmp .idle .foreground).nextEvent = .foreground ∧ (f .goCmp .idle .foreground).fpc ≠ .idle) ∧
    ((f .idle .kExit .foreground).nextEvent = .foreground ∧ (f .idle .kExit .foreground).hpc ≠ .idle) ∧
    ((f .idle .idle .foreground).nextEvent = .foreground ∧ (f .idle .idle .foreground).port = none) ∧
    ((f .idle .kExit .handler).nextEvent = .handler ∧ contextOf (f .idle .kExit .handler).hpc = .key) ∧
    ((f .idle .tExit .handler).nextEvent = .handler ∧ contextOf (f .idle .tExit .handler).hpc = .tmr) ∧
    ((f .idle .idle .handler).nextEvent = .handler ∧ (f .idle .idle .handler).hpc = .idle) := by
  decide

/-- V-INT-7: lines 0 and 6 are both dispatchable; the move `e` is next. -/
def bothPending (e : Event) : State := { game with sched := [e], ic := { game.ic with pnd := 0x41, msk := 0xBE } }

theorem witness_DeliveryStartsTheRegisteredHandler :
    ∀ l : Fin 8, (bothPending (.deliver l)).nextEvent = .deliver l ∧
      ((bothPending (.deliver l)).ic.dispatchable l = true ↔ l = 0 ∨ l = 6) := by
  decide

theorem witness_WaitingWordIsTakenOnlyWhenIdle :
    (∃ t, (waiting 0x510000000000).port = some 0x510000000000 ∧ step (waiting 0x510000000000) = .next t) ∧
    ∃ t, ({ waiting 0x510000000000 with hpc := .kScan } : State).port = some 0x510000000000 ∧
      step { waiting 0x510000000000 with hpc := .kScan } = .next t :=
  ⟨⟨_, rfl, rfl⟩, ⟨_, rfl, rfl⟩⟩

/-- A presentation on an empty port and one on a taken port (R101). -/
theorem witness_presentation :
    (withMoves [.present 0x510000000000]).nextEvent = .present 0x510000000000 ∧
    (withMoves [.present 0x510000000000]).port = none ∧
    got (step (withMoves [.present 0x510000000000])) (·.port) = some (some 0x510000000000) ∧
    got (step { waiting 0x510000000000 with sched := [.present 0x110000000000] }) (·.port) =
      some (some 0x510000000000) := by
  decide

/-- A ring buffer of capacity 4 at these positions meets R22. -/
theorem inv_of_positions {st en : BitVec 2} {full : Bool} {buf : Vector Byte 4} (h : full = true → st = en) :
    ({ startIdx := st, endIdx := en, full := full, cap := 4#3, buf := buf } : RingBuffer).Inv :=
  ⟨show 1 ≤ 4 by decide, show 4 ≤ 4 by decide, st.isLt, en.isLt, h⟩

theorem witness_InvalidExactlyOutsideTheRanges :
    (∀ i ∈ ([.sysRegrd 0x10, .sysRegrd 0x98, .rbInit 1, .rbInit 4, .icCfgGlobal 1 1, .icCfgFiq 1, .icSetMode 7 1, .icAck 7,
        .tmSetPrescaler 2 255, .tmSetDivider 3 4, .tmSetDivider 4 5, .tmSetDivider 5 6, .tmSetMode 5 1, .tmCommit 5,
        .tmCfgPeriod 5 3 1, .rbGet, .fsmLoop, .keyIsr] : List Instr), rangesOk i) ∧
    (∀ i ∈ ([.sysRegrd 0x0F, .sysRegrd 0x99, .rbInit 0, .rbInit 5, .icCfgGlobal 2 0, .icCfgGlobal 0 2, .icCfgFiq 2,
        .icSetMode 8 0, .icSetMode 0 2, .icAck 8, .tmSetPrescaler 3 0, .tmSetPrescaler 0 256, .tmSetDivider 4 4,
        .tmSetDivider 5 5, .tmSetDivider 4 6, .tmSetDivider 0 7, .tmSetMode 6 0, .tmCommit 6, .tmCfgPeriod 0 4 0,
        .tmCfgPeriod 0 0 2] : List Instr), ¬ rangesOk i) ∧
    State.reset.rb.Inv ∧ State.reset.res = none := by
  refine ⟨?_, ?_, inv_of_positions (by decide), rfl⟩ <;> simp [rangesOk]

theorem witness_RingBufferIsFirstInFirstOut :
    (withBuf 0 0 false #v[0, 0, 0, 0]).rb.Inv ∧ (withBuf 0 0 false #v[0, 0, 0, 0]).rb.contents = [] ∧
    (withBuf 3 3 true #v[1, 2, 3, 4]).rb.Inv ∧ (withBuf 3 3 true #v[1, 2, 3, 4]).rb.contents = 4 :: [1, 2, 3] ∧
    (1 ≤ (1 : Byte).toNat ∧ (4 : Byte).toNat ≤ 4) ∧
    (([5, 6, 7, 8] : List Byte).length ≤ (withBuf 0 0 false #v[0, 0, 0, 0]).rb.cap.toNat ∧
      4 ≤ ([5, 6, 7, 8] : List Byte).length) :=
  ⟨inv_of_positions (by decide), by decide, inv_of_positions (by decide), by decide, by decide, by decide⟩

theorem witness_PutsRetainTheMostRecentBytes : (withBuf 3 3 true #v[1, 2, 3, 4]).rb.Inv :=
  inv_of_positions (by decide)

/-- The clauses of the statements about one line, one group or one timer: the first and the last valid number, the first
invalid one, and the boundary codes. -/
theorem witness_operand_clauses :
    ((0 : Byte).toNat = (0 : Fin 8).val ∧ (7 : Byte).toNat = (7 : Fin 8).val ∧ 8 ≤ (8 : Byte).toNat) ∧
    ((2 : Byte).toNat = (2 : Fin 3).val ∧ 3 ≤ (3 : Byte).toNat) ∧
    ((5 : Byte).toNat = (5 : Fin 6).val ∧ 6 ≤ (6 : Byte).toNat) ∧
    ((1 : Half).toNat ≤ 1 ∧ 2 ≤ (2 : Half).toNat ∧ (3 : Half).toNat ≤ 3 ∧ 4 ≤ (4 : Half).toNat) ∧
    ((255 : Half).toNat ≤ 255 ∧ 256 ≤ (256 : Half).toNat) ∧
    ((6 : Half).toNat = (ratioCode .ext5).toNat ∧ (0 : Half).toNat = (ratioCode .div2).toNat ∧ 7 ≤ (7 : Half).toNat) ∧
    (periodOf (3 : Half).toNat = some .quarterSec ∧ periodOf (0 : Half).toNat = some .twoSecs) := by
  decide

/-- Timer 0 as given, `Pulse(0)` next. -/
def pulsing (x : Timer) : State := { withMoves [.pulse 0] with tm := State.reset.tm.set 0 x }

theorem witness_PulseCountsDownAndExpires :
    let run (c : Half) : State := pulsing { Timer.initial with run := true, cnt := c }
    (pulsing Timer.initial).nextEvent = .pulse 0 ∧ (pulsing Timer.initial).tm[0].run = false ∧
    ((run 2).tm[0].run = true ∧ 2 ≤ (run 2).tm[0].cnt.toNat) ∧
    ((run 1).tm[0].run = true ∧ (run 1).tm[0].cnt.toNat ≤ 1) ∧
    ((run 0).tm[0].run = true ∧ (run 0).tm[0].cnt.toNat ≤ 1) := by
  decide

theorem witness_TimerExpiresAtItsNthPulse :
    let s (m : TimerMode) (c : Half) : State := pulsing { Timer.initial with run := true, cnt := c, mode := m }
    ((s .reload 1).tm[0].run = true ∧ 1 ≤ (s .reload 1).tm[0].cnt.toNat ∧ (s .reload 1).tm[0].mode = .reload) ∧
    ((s .oneShot 65535).tm[0].run = true ∧ 1 ≤ (s .oneShot 65535).tm[0].cnt.toNat ∧
      (s .oneShot 65535).tm[0].mode = .oneShot) := by
  decide

theorem witness_ComparesAndRatesHaveNoEffect :
    let s' : State := { State.reset with
      psc := #v[1, 2, 3], tm := State.reset.tm.set 4 { Timer.initial with div := .ext4, cmp := 7, cmpb := 8 } }
    eraseRates State.reset = eraseRates s' ∧ State.reset ≠ s' ∧ ¬ readsRegister State.reset := by
  refine ⟨by simp [eraseRates, State.reset, Timer.initial], by decide, ?_⟩
  rintro ⟨-, -, -, w, a, h, -⟩
  cases h

/-- A `SYS.REGRD` that waits while an `FSM.LOOP` ends is not the next step. -/
theorem witness_waitingReadIsNoRead :
    let s : State := { waiting 0x014700000000 with fpc := .goCmp }
    ¬ readsRegister s ∧ got (step s) (·.res) = some (some 0) := by
  refine ⟨?_, by decide⟩
  rintro ⟨-, -, h, -⟩
  cases h

theorem witness_KmScanReportsTheFirstKey :
    let rows : Vector Nibble 4 := #v[0xF, 0xF, 0xF, 0x7]
    ((∀ j : Fin 4, j < 3 → rows[j.val] = 0xF#4) ∧ rows[3].getLsbD 3 = false ∧
      ∀ d : Fin 4, d < 3 → rows[3].getLsbD d.val = true) ∧
    (#v[0xE, 0xF, 0xF, 0xF] : Vector Nibble 4)[0].getLsbD 0 = false ∧
    ∀ j : Fin 4, State.reset.kmRow[j.val] = 0xF#4 := by
  decide

theorem witness_RegrdReadsExactlyTheListedNumbers :
    (∀ n ∈ ([0x10, 0x17, 0x20, 0x24, 0x30, 0x32, 0x40, 0x6F, 0x70, 0x74, 0x80, 0x89, 0x90, 0x98] : List Byte),
      rangesOk (.sysRegrd n)) ∧
    ∀ n ∈ ([0x00, 0x0F, 0x18, 0x1F, 0x25, 0x2F, 0x33, 0x3F, 0x75, 0x7F, 0x8A, 0x8F, 0x99, 0xFF] : List Byte),
      ¬ rangesOk (.sysRegrd n) := by
  simp [rangesOk]

/-- Every position of `FSM.LOOP` and of the handlers is some state's (statements O34 to O43). -/
theorem witness_positions :
    (∀ p : Fpc, (at_ .init p .idle).fpc = p) ∧ (∀ p : Hpc, (at_ .init .idle p).hpc = p) ∧
    (ticking.hpc = .tBody ∧ ticking.played ≠ ticking.showWatermark ∧ ticking.rb.isEmpty = false) ∧
    (({ ticking with rb := ticking.rb.reset } : State).rb.isEmpty = true) ∧
    ({ ticking with played := 4 } : State).played = ticking.showWatermark := by
  refine ⟨fun _ => rfl, fun _ => rfl, by decide, by decide, by decide⟩

theorem witness_CaptureEndsAtFourKeys :
    let full : State := { withBuf 1 1 true #v[5, 2, 3, 4] with fpc := .capSize }
    let short : State := { withBuf 3 0 false #v[5, 2, 3, 4] with fpc := .capSize }
    (full.fpc = .capSize ∧ full.rb.Inv ∧ full.rb.contents.length = 4) ∧
    (short.fpc = .capSize ∧ short.rb.Inv ∧ short.rb.contents.length = 3) :=
  ⟨⟨rfl, inv_of_positions (by decide), by decide⟩, ⟨rfl, inv_of_positions (by decide), by decide⟩⟩

theorem reset_inv : BlockInv State.reset :=
  ⟨inv_of_positions (by decide), by decide, by decide, by decide, by decide, nofun, show 0 ≤ 4 by decide,
    show 0 ≤ 4 by decide, trivial⟩

/-- A state of the block at the given positions that meets its invariant. -/
theorem inv_at {rb : RingBuffer} {g : GameState} {f : Fpc} {w : CommandWord} {e : Event} {sd : Bool} (hr : rb.Inv)
    (hp : phaseMatches g f) :
    BlockInv { at_ g f .idle with rb := rb, port := some w, sched := [e], inputDone := true, showDone := sd } :=
  ⟨hr, reset_inv.div_ok, reset_inv.line7, reset_inv.vec_tmr, reset_inv.vec_key, nofun, reset_inv.ncap_le,
    reset_inv.wmark_le, hp⟩

/-- One state for each way `gs` changes: reset, `FSM.SETUP`, and the rows of the transition table. -/
theorem witness_GameStateFollowsTheTable :
    let s (g : GameState) (f : Fpc) (e : Event) (pw : Byte) : State :=
      { at_ g f .idle with
        rb := { startIdx := 0, endIdx := 0, full := true, cap := 4#3, buf := #v[1, 2, 3, 4] }
        port := some 0x500000000000, sched := [e], inputDone := true, showDone := true, pwd := #v[pw, 0, 0, 0] }
    got (step (s .guess .idle .rst 0)) (·.gs) = some .init ∧
    got (step (s .guess .idle .foreground 0)) (·.gs) = some .init ∧
    got (step (s .init .capSize .foreground 0)) (·.gs) = some .showPassword ∧
    got (step (s .showPassword .pbWait .foreground 0)) (·.gs) = some .guess ∧
    got (step (s .guess .capSize .foreground 0)) (·.gs) = some .showGuess ∧
    got (step (s .showGuess .pbWait .foreground 0)) (·.gs) = some .gameOver ∧
    got (step (s .gameOver .goCmp .foreground 0)) (·.gs) = some .init ∧
    got (step (s .gameOver .goCmp .foreground 9)) (·.gs) = some .guess ∧
    BlockInv (s .showGuess .pbWait .foreground 0) ∧ BlockInv (s .gameOver .goCmp .foreground 0) := by
  refine ⟨by decide, by decide, by decide, by decide, by decide, by decide, by decide, by decide, ?_, ?_⟩
  · exact inv_at (inv_of_positions (by decide)) (.inr rfl)
  · exact inv_at (inv_of_positions (by decide)) rfl

theorem witness_TimerHandlerRunsToCompletion :
    let s : State := { bothPending .foreground with sched := [.deliver 0, .handler, .handler] ++ [.rst] }
    s.hpc = .idle ∧ s.ic.dispatchable 0 = true ∧ s.ic.vec[0] = .vTmr ∧
    s.sched = [.deliver 0, .handler, .handler] ++ [.rst] ∧ s.played = s.showWatermark ∧
    ({ s with showWatermark := 4 } : State).played ≠ 4 := by
  decide

theorem witness_KeyHandlerRunsToCompletion :
    let s (rows : Vector Nibble 4) : State :=
      { bothPending .foreground with
        kmRow := rows, sched := [.deliver 6, .handler, .handler, .handler, .handler, .handler] ++ [] }
    (∀ rows, (s rows).hpc = .idle ∧ (s rows).ic.dispatchable 6 = true ∧ (s rows).ic.vec[6] = .vKey ∧
      (s rows).keyPin = true ∧
      (s rows).sched = [.deliver 6, .handler, .handler, .handler, .handler, .handler] ++ []) ∧
    (kmScan #v[0xF, 0xF, 0xF, 0x7]).toNat = 15 ∧ (kmScan #v[0xF, 0xF, 0xF, 0xF]).toNat = 16 ∧
    (kmScan #v[0xF, 0xF, 0xF, 0xB]).toNat = 14 := by
  have h6 : (bothPending .foreground).ic.dispatchable 6 = true ∧ (bothPending .foreground).ic.vec[6] = .vKey := by
    decide
  exact ⟨fun _ => ⟨rfl, h6.1, h6.2, rfl, rfl⟩, by decide, by decide, by decide⟩

/-- A key held over any number of polls of its release. -/
theorem witness_KeyHandlerRunsToCompletion_held (n : Nat) (rows : Vector Nibble 4) :
    let es := [.deliver 6, .handler, .handler] ++ List.replicate n .handler ++
      [.input rows true, .handler, .handler, .handler] ++ []
    let s : State := { bothPending .foreground with keyPin := false, sched := es }
    s.hpc = .idle ∧ s.ic.dispatchable 6 = true ∧ s.ic.vec[6] = .vKey ∧ s.keyPin = false ∧ s.sched = es :=
  have h6 : (bothPending .foreground).ic.dispatchable 6 = true ∧ (bothPending .foreground).ic.vec[6] = .vKey := by
    decide
  ⟨rfl, h6.1, h6.2, rfl, rfl⟩

theorem witness_HeldKeyBlocksEverything :
    let s : State := { game with hpc := .kRelease, keyPin := false, sched := [.pulse 0] }
    s.hpc = .kRelease ∧ s.keyPin = false ∧ s.nextEvent ≠ .rst ∧ ∃ t, step s = .next t :=
  ⟨rfl, rfl, by decide, _, rfl⟩

theorem witness_HandlersLeaveTheForegroundAlone :
    (bothPending (.deliver 6)).nextEvent = .deliver 6 ∧ ({ ticking with sched := [.handler] } : State).nextEvent = .handler ∧
    (∃ t, step (bothPending (.deliver 6)) = .next t) ∧ ∃ t, step { ticking with sched := [.handler] } = .next t :=
  ⟨rfl, rfl, ⟨_, rfl⟩, ⟨_, rfl⟩⟩

/-- A pending bit is cleared in each of the three ways. -/
theorem witness_PendingBitsAreClearedOnlyByAcknowledge :
    got (step (bothPending .rst)) (·.ic.pnd) = some 0 ∧
    got (step { bothPending .handler with hpc := .kExit }) (·.ic.pnd) = some 0x01 ∧
    got (step { bothPending .handler with hpc := .tExit }) (·.ic.pnd) = some 0x40 ∧
    got (step { bothPending .foreground with port := some 0x260600000000 }) (·.ic.pnd) = some 0x01 := by
  decide

/-- A pending bit is set in each of the two ways; the line is Masked. -/
theorem witness_PendingBitsAreSetBySourceEvents :
    got (step (pulsing { Timer.initial with run := true, cnt := 1 })) (·.ic.pnd) = some 0x01 ∧
    got (step (withMoves [.input #v[0x7, 0xF, 0xF, 0xF] false])) (·.ic.pnd) = some 0x40 ∧
    (withMoves [.input #v[0x7, 0xF, 0xF, 0xF] false]).nextEvent = .input #v[0x7, 0xF, 0xF, 0xF] false := by
  decide

theorem witness_VectorsAndResultBuffersHaveTheirWritersOnly :
    got (step (waiting 0x500000000000)) (fun t => vecWord t.ic) = some 0x1002 ∧
    got (step { ticking with sched := [.handler] }) (fun t => t.pwd.toList) = some [7, 0, 0, 0] ∧
    got (step { ticking with sched := [.handler], target := .tGuess }) (fun t => t.guess.toList) = some [7, 0, 0, 0] ∧
    got (step { ticking with sched := [.rst], pwd := #v[1, 2, 3, 4] }) (fun t => t.pwd.toList) = some [0, 0, 0, 0] := by
  decide

theorem witness_FlagsHaveTheirWritersOnly :
    let s (f : Fpc) (h : Hpc) (b : Bool) (e : Event) : State :=
      { at_ .init f h with sched := [e], inputDone := b, showDone := b, kmRow := #v[0xF, 0xF, 0xF, 0x7] }
    got (step (s .idle .kScan false .handler)) (·.inputDone) = some true ∧
    got (step (s .idle .tBody false .handler)) (·.showDone) = some true ∧
    got (step (s .capClear .idle true .foreground)) (·.inputDone) = some false ∧
    got (step (s .pbClear .idle true .foreground)) (·.showDone) = some false ∧
    got (step (s .idle .idle true .rst)) (fun t => (t.inputDone, t.showDone)) = some (false, false) ∧
    got (step { s .idle .idle true .foreground with port := some 0x500000000000 })
      (fun t => (t.inputDone, t.showDone)) = some (false, false) := by
  decide

theorem witness_DisplayTraceOnlyGrows :
    ticking.nextEvent = Config.freeEvent 0 ∧ ({ ticking with sched := [.handler] } : State).nextEvent ≠ .rst ∧
    got (step { ticking with sched := [.handler] }) (fun t => (t.trace, t.disp)) = some ([7], 7) :=
  ⟨rfl, by decide, by decide⟩

theorem witness_ByteSpacesKeepWhatIsNotStored :
    (∃ t, exec .rbGet ticking = .next t) ∧ (∃ t, exec (.rbPut 0xFF) ticking = .next t) ∧
    (∃ t, exec .keyIsr { ticking with hpc := .kScan } = .next t) ∧ ∃ t, exec .timerIsr ticking = .next t :=
  ⟨⟨_, rfl⟩, ⟨_, rfl⟩, ⟨_, rfl⟩, ⟨_, rfl⟩⟩

theorem witness_HardwareResetReachesEveryRegister : (bothPending .rst).nextEvent = .rst := rfl

theorem witness_ResetReadsBackItsValues :
    ∀ n ∈ ([0x10, 0x13, 0x21, 0x6F, 0x80, 0x98] : List (Fin 256)),
      rangesOk (.sysRegrd (BitVec.ofNat 8 n.val)) ∧ ¬ (0x70 ≤ n.val ∧ n.val ≤ 0x74) := by
  simp [rangesOk]

theorem witness_SetupEstablishesTheGameInvariant :
    BlockInv State.reset ∧ State.reset.fpc = .idle ∧ State.reset.hpc = .idle ∧ State.reset.tm[0].run = false ∧
    lineBit State.reset.ic.pnd 0 = false ∧ ∀ w, State.reset.port = some w → quietWord w = true :=
  ⟨reset_inv, rfl, rfl, rfl, by decide, nofun⟩

/-- An undisturbed game that plays back the password `1 2 3 4`, at a position of the playback. -/
def playback (f : Fpc) (h : Hpc) (rb : RingBuffer) (pwd : Vector Byte 4) (played : Byte) (run sd : Bool) (pnd : Byte) :
    State :=
  { game with
    gs := .showPassword, fpc := f, hpc := h, rb := rb, pwd := pwd, played := played, showDone := sd, inputDone := true
    showWatermark := 4, target := .tPwd, tm := game.tm.set 0 { game.tm[0] with run := run }
    ic := { game.ic with pnd := pnd }, res := none, sched := [if h = .idle then .foreground else .handler] }

/-- The four bytes captured. -/
def fullBuf : RingBuffer := { startIdx := 0, endIdx := 0, full := true, cap := 4, buf := #v[1, 2, 3, 4] }

/-- The buffer after `k` pops. -/
def drained (k : BitVec 2) : RingBuffer := { startIdx := 0, endIdx := k, full := false, cap := 4, buf := #v[1, 2, 3, 4] }

/-- About to start, about to play the last byte, about to complete, complete. -/
def playbackStart : State := playback .pbStart .idle fullBuf #v[0, 0, 0, 0] 0 false false 0
def playbackLast : State := playback .pbWait .tBody (drained 3) #v[1, 2, 3, 0] 3 true false 1
def playbackEnd : State := playback .pbWait .tBody (drained 0) #v[1, 2, 3, 4] 4 true false 1
def playbackDone : State := playback .pbWait .idle (drained 0) #v[1, 2, 3, 4] 0 false true 0

theorem playbackStart_inv : GameInv playbackStart := by
  refine ⟨⟨inv_of_positions (by decide), by decide, by decide, by decide, by decide, nofun, ?_, ?_, .inl rfl⟩,
    rfl, by decide, by decide, by decide, nofun, .inl (by decide), nofun, nofun, nofun, by decide, nofun, nofun, nofun,
    ?_, by decide, by decide, by decide, by decide, by decide, by decide, ?_, nofun⟩
  · show 0 ≤ 4
    decide
  · show 4 ≤ 4
    decide
  · exact ⟨nofun, fun h => nomatch h.1⟩
  · exact fun h => nomatch h.1

theorem playbackLast_inv : GameInv playbackLast := by
  refine ⟨⟨inv_of_positions (by decide), by decide, by decide, by decide, by decide, nofun, ?_, ?_, .inl rfl⟩,
    rfl, by decide, by decide, by decide, nofun, .inl (by decide), nofun, nofun, nofun, by decide, nofun, by decide,
    by decide, ?_, by decide, by decide, by decide, by decide, by decide, by decide, ?_, nofun⟩
  · show 0 ≤ 4
    decide
  · show 4 ≤ 4
    decide
  · exact ⟨fun _ => ⟨rfl, rfl⟩, fun _ => by decide⟩
  · exact fun _ => by decide

theorem playbackEnd_inv : GameInv playbackEnd := by
  refine ⟨⟨inv_of_positions (by decide), by decide, by decide, by decide, by decide, nofun, ?_, ?_, .inl rfl⟩,
    rfl, by decide, by decide, by decide, nofun, .inl (by decide), nofun, nofun, nofun, by decide, nofun, by decide,
    by decide, ?_, by decide, by decide, by decide, by decide, by decide, by decide, ?_, nofun⟩
  · show 0 ≤ 4
    decide
  · show 4 ≤ 4
    decide
  · exact ⟨fun _ => ⟨rfl, rfl⟩, fun _ => by decide⟩
  · exact fun _ => by decide

theorem playbackDone_inv : GameInv playbackDone := by
  refine ⟨⟨inv_of_positions (by decide), by decide, by decide, by decide, by decide, nofun, ?_, ?_, .inl rfl⟩,
    rfl, by decide, by decide, by decide, nofun, .inl (by decide), nofun, nofun, nofun, by decide, nofun, by decide,
    by decide, ?_, by decide, by decide, by decide, by decide, by decide, by decide, ?_, by decide⟩
  · show 0 ≤ 4
    decide
  · show 4 ≤ 4
    decide
  · exact ⟨nofun, fun h => nomatch h.2⟩
  · exact fun h => nomatch h.2

theorem witness_UndisturbedStepsKeepTheGameInvariant :
    GameInv playbackLast ∧ quietEvent playbackLast.nextEvent = true ∧ ∃ t, step playbackLast = .next t :=
  ⟨playbackLast_inv, by decide, _, rfl⟩

/-- Each clause's hypotheses, and what the states show: the start, the last byte, the completion, the end of the LOOP. -/
theorem witness_PlaybackPlaysTheCapturedBytes :
    (GameInv playbackStart ∧ quietEvent playbackStart.nextEvent = true ∧
      got (step playbackStart) (fun t => (t.fpc, t.playbackBytes)) = some (.pbWait, [1, 2, 3, 4])) ∧
    (GameInv playbackLast ∧ got (step playbackLast) (fun t => (t.fpc, t.playbackBytes, t.played, t.trace)) =
      some (.pbWait, [1, 2, 3, 4], 4, [4])) ∧
    (GameInv playbackEnd ∧ got (step playbackEnd) (fun t => (t.fpc, t.playbackBytes, t.played, t.trace)) =
      some (.pbWait, [1, 2, 3, 4], 0, [])) ∧
    (GameInv playbackDone ∧ quietEvent playbackDone.nextEvent = true ∧
      got (step playbackDone) (fun t => (t.fpc, t.gs, t.pwd.toList)) = some (.idle, .guess, [1, 2, 3, 4])) :=
  ⟨⟨playbackStart_inv, by decide, by decide⟩, ⟨playbackLast_inv, by decide⟩, ⟨playbackEnd_inv, by decide⟩,
    ⟨playbackDone_inv, by decide, by decide⟩⟩

end Sys2Proof.Tests
end

section
/-! PROOFS. The invariant of the block (`BlockInv`): it holds at reset, and each move keeps it (O56, O57). -/

namespace Sys2Proof.Machine

open Sys2Proof

/-- What one ring buffer operation can make of the registers (R110 to R113). -/
inductive RingBuffer.Written (r : RingBuffer) : RingBuffer → Prop
  | same : Written r r
  | init (c : BitVec 3) (h1 : 1 ≤ c.toNat) (h2 : c.toNat ≤ 4) : Written r (r.init c)
  | reset : Written r r.reset
  | put (b : Byte) : Written r (r.put b)
  | get {b : Byte} {q : RingBuffer} (h : r.get = some (b, q)) : Written r q

theorem RingBuffer.Written.inv {r q : RingBuffer} (h : r.Written q) (hr : r.Inv) : q.Inv := by
  cases h with
  | same => exact hr
  | init c h1 h2 => exact r.init_inv h1 h2
  | reset => exact r.reset_inv hr
  | put b => exact r.put_inv hr b
  | get h => exact r.get_inv hr h

/-- What one timer operation can make of the six timers: at most one is written, and a divider it gets is one the timer
admits (R152, R153). -/
inductive TimersWritten (tm : Vector Timer 6) : Vector Timer 6 → Prop
  | same : TimersWritten tm tm
  | keepDiv (k : Fin 6) (x : Timer) (h : x.div = tm[k.val].div) : TimersWritten tm (tm.set k.val x)
  | setDiv (k : Fin 6) (x : Timer) (h : ratioOk k x.div = true) : TimersWritten tm (tm.set k.val x)

/-- Every divider is one its timer admits (R153): the part of `BlockInv` about the timers. -/
def DividersOk (tm : Vector Timer 6) : Prop := ∀ t : Fin 6, ratioOk t tm[t.val].div = true

theorem DividersOk.set {tm : Vector Timer 6} (h : DividersOk tm) {k : Fin 6} {x : Timer}
    (hx : ratioOk k x.div = true) : DividersOk (tm.set k.val x) := by
  intro t
  by_cases hk : t = k
  · subst hk
    simpa using hx
  · rw [Vector.getElem_set_ne _ _ (by omega)]
    exact h t

theorem TimersWritten.dividersOk {tm tm' : Vector Timer 6} (h : TimersWritten tm tm') (hd : DividersOk tm) :
    DividersOk tm' := by
  cases h with
  | same => exact hd
  | keepDiv k x h => exact hd.set (h ▸ hd k)
  | setDiv k x h => exact hd.set h

/-- Every period of the table has a divider that all timers admit (R153, R161). -/
theorem ratioOk_periodRow (t : Fin 6) (p : Period) : ratioOk t (periodRow p).div = true := by
  cases p <;> rfl

/-- A plain command writes the ring buffer by one of its operations and the timers by one of theirs, if at all. -/
theorem exec_plain_writes {i : Instr} {s t : State} (h : exec i s = .next t) (h1 : i ≠ .fsmSetup) (h2 : i ≠ .fsmLoop)
    (h3 : i ≠ .keyIsr) (h4 : i ≠ .timerIsr) : s.rb.Written t.rb ∧ TimersWritten s.tm t.tm := by
  cases i
  case fsmSetup => exact absurd rfl h1
  case fsmLoop => exact absurd rfl h2
  case keyIsr => exact absurd rfl h3
  case timerIsr => exact absurd rfl h4
  case rbInit a =>
    simp only [exec, execRbInit, done, failed] at h
    split at h <;> cases h
    · rename_i c hc
      obtain ⟨hpos, hle, -⟩ := capacityOf_some hc
      exact ⟨.init c hpos hle, .same⟩
    · exact ⟨.same, .same⟩
  case rbReset =>
    cases h
    exact ⟨.reset, .same⟩
  case rbPut a =>
    cases h
    exact ⟨.put a, .same⟩
  case rbGet =>
    simp only [exec, execRbGet, done, failed] at h
    split at h <;> cases h
    · exact ⟨.get ‹_›, .same⟩
    · exact ⟨.same, .same⟩
  case tmSetDivider a b =>
    simp only [exec, execTmSetDivider, done, failed] at h
    (repeat' split at h) <;> cases h
    · exact ⟨.same, .setDiv _ _ (dividerOf_some ‹_›)⟩
    · exact ⟨.same, .same⟩
    · exact ⟨.same, .same⟩
  case tmCfgPeriod a b c =>
    simp only [exec, execTmCfgPeriod, done, failed, tmCfgPeriod_eq] at h
    split at h <;> cases h
    · exact ⟨.same, .setDiv _ _ (ratioOk_periodRow _ _)⟩
    · exact ⟨.same, .same⟩
  case tmSetMode a b =>
    simp only [exec, execTmSetMode, done, failed] at h
    split at h <;> cases h
    · exact ⟨.same, .keepDiv _ _ rfl⟩
    · exact ⟨.same, .same⟩
  case tmSetCount | tmCommit | tmStart | tmStop =>
    simp only [exec, execTmSetCount, execTmCommit, execTmStart, execTmStop, done, failed] at h
    split at h <;> cases h
    · exact ⟨.same, .keepDiv _ _ rfl⟩
    · exact ⟨.same, .same⟩
  all_goals
    simp only [exec, execSysRegrd, execRbIsEmpty, execRbIsFull, execRbSize, execRbCapacity, execIcReset, execIcCfgGlobal,
      execIcCfgFiq, execIcSetMode, execIcEnable, execIcDisable, execIcAck, execTmSetPrescaler, execTmIsRunning,
      execKmScan, done, failed] at h
    (repeat' split at h) <;> cases h <;> exact ⟨.same, .same⟩

/-- The buffer after reset, which is also the buffer after `FSM.SETUP` (R190, R290). -/
theorem RingBuffer.initial_inv : RingBuffer.initial.Inv :=
  ⟨by decide, by decide, by decide, by decide, nofun⟩

theorem blockInv_reset : BlockInv State.reset where
  rb := RingBuffer.initial_inv
  div_ok := by decide
  line7 := by decide
  vec_tmr := by decide
  vec_key := by decide
  term := nofun
  ncap_le := by decide
  wmark_le := by decide
  phase := trivial

theorem blockInv_hardwareReset (s : State) : BlockInv (hardwareReset s) := { blockInv_reset with }

/-- Settles O56, by evaluating each part at the reset state. -/
theorem invariantHoldsAtReset : Obligations.InvariantHoldsAtReset := blockInv_reset

section Moves

variable {s : State} (hs : BlockInv s)
include hs

/-- Before the scan, and outside `key_isr`, `term_seen` is 0 (R28). -/
theorem BlockInv.termSeen_of_not_afterScan (h : afterScan s.hpc = false) : s.termSeen = false := by
  by_contra hn
  simp [hs.term (by simpa using hn)] at h

/-- Writing the pending bit of another line keeps line 7 clear (R255). -/
theorem BlockInv.line7_setLineBit {l : Fin 8} (hl : l ≠ 7) (b : Bool) : lineBit (setLineBit s.ic.pnd l b) 7 = false := by
  rw [lineBit_setLineBit, if_neg hl.symm]
  exact hs.line7

theorem blockInv_consumeEvent : BlockInv s.consumeEvent := by
  unfold State.consumeEvent
  split <;> exact { hs with }

theorem blockInv_withRes (r : ResultWord) : BlockInv (s.withRes r) := { hs with }

theorem blockInv_present (w : CommandWord) : BlockInv (present w s) := by
  unfold present
  split <;> exact { hs with }

theorem blockInv_exec_plain {i : Instr} {t : State} (h : exec i s = .next t) (h1 : i ≠ .fsmSetup) (h2 : i ≠ .fsmLoop)
    (h3 : i ≠ .keyIsr) (h4 : i ≠ .timerIsr) : BlockInv t := by
  obtain ⟨hrb, htm⟩ := exec_plain_writes h h1 h2 h3 h4
  have hpnd : lineBit t.ic.pnd 7 = false := by
    rcases exec_plain_pnd h h1 h2 h3 h4 with hp | ⟨a, l, -, -, hp⟩ <;> rw [hp]
    · exact hs.line7
    · simp [hs.line7]
  rw [exec_plain_frame h h1 h2 h3 h4]
  exact { hs with rb := hrb.inv hs.rb, div_ok := htm.dividersOk hs.div_ok, line7 := hpnd }

/-- `FSM.SETUP` registers exactly the two pairs that may be registered (R190, R262). -/
theorem blockInv_setup (hf : s.fpc = .idle) : BlockInv (setupInterrupts (setupState s)) := by
  rw [setupInterrupts_eq, setupState_eq]
  refine { hs with
    rb := RingBuffer.initial_inv
    div_ok := DividersOk.set (k := 0) hs.div_ok rfl
    vec_tmr := fun l => ?_
    vec_key := fun l => ?_
    term := nofun
    ncap_le := Nat.zero_le 4
    wmark_le := Nat.zero_le 4
    phase := ?_ }
  · have hv := hs.vec_tmr l
    grind
  · have hv := hs.vec_key l
    grind
  · simp [hf, phaseMatches]

theorem blockInv_loopAccept : BlockInv (loopAccept s) := by
  refine { hs with phase := ?_ }
  unfold loopAccept
  cases hg : s.gs <;> simp [phaseMatches, hg]

/-- The size the capture latches fits its register (R29, R116). -/
theorem ncap_of_size_le : (BitVec.ofInt 3 s.rb.size).toNat ≤ 4 := by
  have hb := s.rb.size_bounds hs.rb
  have hc := hs.rb.cap_le
  rw [BitVec.toNat_ofInt]
  omega

/-- Each micro-step of `FSM.LOOP` goes to a position of the same phase of the game, or ends (R192). -/
theorem blockInv_loopStep (hf : s.fpc ≠ .idle) : BlockInv (loopStep s) := by
  have hp := hs.phase
  rcases loopStep_cases hf with ⟨h, e⟩ | ⟨h, e⟩ | ⟨h, e⟩ | ⟨h, e⟩ | ⟨h, e⟩ | ⟨h, -, e⟩ | ⟨h, -, e⟩ | ⟨h, -, e⟩ | ⟨h, -, e⟩ |
    ⟨h, e⟩ | ⟨h, e⟩ | ⟨h, e⟩ | ⟨h, e⟩ | ⟨h, -, e⟩ | ⟨h, -, e⟩ | ⟨h, g, v, -, e⟩
  all_goals
    rw [e]
    rw [h] at hp
  · exact { hs with phase := .inl hp }
  · exact { hs with phase := .inr hp }
  · exact { hs with rb := s.rb.reset_inv hs.rb, phase := hp }
  · exact { hs with phase := hp }
  · exact { hs with phase := hp }
  · exact { hs with phase := hp }
  · exact hs
  · exact { hs with ncap_le := ncap_of_size_le hs, phase := trivial }
  · exact { hs with ncap_le := ncap_of_size_le hs, phase := hp }
  · refine { hs with wmark_le := ?_, phase := hp }
    have hc := hs.rb.cap_le
    simp only [BitVec.toNat_setWidth]
    omega
  · exact { hs with phase := hp }
  · exact { hs with phase := hp }
  · exact { hs with div_ok := DividersOk.set (k := 0) hs.div_ok (hs.div_ok 0), phase := hp }
  · exact { hs with phase := trivial }
  · exact hs
  · exact { hs with phase := trivial }

/-- `key_isr` sets `term_seen` only at the scan and clears it at its exit (R28, R222, R225). -/
theorem blockInv_keyStep (hc : contextOf s.hpc = .key) : BlockInv (keyStep s) := by
  rcases keyStep_cases hc with ⟨h, e⟩ | ⟨-, -, e⟩ | ⟨-, -, -, e⟩ | ⟨-, -, -, e⟩ | ⟨-, -, e⟩ | ⟨-, -, e⟩ | ⟨-, e⟩ | ⟨-, e⟩
  all_goals rw [e]
  · have ht := hs.termSeen_of_not_afterScan (by rw [h]; rfl)
    exact { hs with term := by simp [ht] }
  · exact { hs with term := fun _ => rfl }
  · exact { hs with term := fun _ => rfl }
  · exact { hs with rb := s.rb.put_inv hs.rb _, term := fun _ => rfl }
  · exact { hs with term := fun _ => rfl }
  · exact hs
  · exact { hs with term := fun _ => rfl }
  · exact { hs with line7 := hs.line7_setLineBit (by decide) false, term := nofun }

/-- `timer_isr` stands where `term_seen` is 0, and its pop and its stop keep the buffer and the dividers (R228, R229). -/
theorem blockInv_timerStep (hc : contextOf s.hpc = .tmr) : BlockInv (timerStep s) := by
  have ha : afterScan s.hpc = false := by cases h : s.hpc <;> simp [h, contextOf, afterScan] at hc ⊢
  have ht := hs.termSeen_of_not_afterScan ha
  rcases timerStep_cases hc with ⟨-, -, e⟩ | ⟨-, -, -, e⟩ | ⟨-, -, v, r, hg, e⟩ | ⟨-, e⟩
  all_goals rw [e]
  · exact { hs with div_ok := DividersOk.set (k := 0) hs.div_ok (hs.div_ok 0), term := by simp [ht] }
  · exact { hs with term := by simp [ht] }
  · exact { hs with rb := s.rb.get_inv hs.rb hg, term := by simp [ht] }
  · exact { hs with line7 := hs.line7_setLineBit (by decide) false, term := by simp [ht] }

theorem blockInv_takeInterrupt (hi : s.hpc = .idle) (v : VecEntry) : BlockInv (takeInterrupt v s) := by
  have ht := hs.termSeen_of_not_afterScan (by rw [hi]; rfl)
  cases v with
  | vNone => exact hs
  | vKey => exact { hs with term := nofun }
  | vTmr => exact { hs with term := by simp [takeInterrupt, ht] }

/-- Line 7 is no timer's line, and neither way of expiring writes a divider (R163, R255). -/
theorem blockInv_expire (k : Fin 6) : BlockInv (expire k s) := by
  refine { hs with
    div_ok := DividersOk.set hs.div_ok ?_
    line7 := hs.line7_setLineBit (Fin.ne_of_val_ne (by show k.val ≠ 7; omega)) true }
  cases s.tm[k.val].mode <;> exact hs.div_ok k

theorem blockInv_inputChange (rows : Vector Nibble 4) (pin : Bool) : BlockInv (inputChange rows pin s) := by
  unfold inputChange
  dsimp only
  split
  · exact { hs with line7 := hs.line7_setLineBit (by decide) true }
  · exact { hs with }

theorem blockInv_turn {e : Event} {t : State} (h : turn e s = .next t) : BlockInv t := by
  rcases turn_cases h with ⟨w, -, rfl⟩ | rfl | ⟨-, -, hf, w, -, hw⟩ | ⟨-, -, hf, rfl⟩ | ⟨-, hc, rfl⟩ | ⟨-, hc, rfl⟩ |
    ⟨l, -, hi, -, -, rfl⟩ | ⟨l, -, hi, -, -, rfl⟩ | ⟨k, -, -, -, rfl⟩ | ⟨k, -, -, -, rfl⟩ | ⟨rows, pin, -, rfl⟩ | ⟨-, rfl⟩
  · exact blockInv_present hs w
  · exact hs
  · have hp : BlockInv { s with port := none } := { hs with }
    rcases hw with ⟨-, rfl⟩ | ⟨-, rfl⟩ | ⟨-, rfl⟩ | ⟨i, hd, hx, h1, h2, -⟩
    · exact { hs with }
    · exact blockInv_withRes (blockInv_setup hp hf) 0
    · exact blockInv_loopAccept hp
    · obtain ⟨h3, h4⟩ := decodeCommand_not_handler hd
      exact blockInv_exec_plain hp hx h1 h2 h3 h4
  · exact blockInv_loopStep hs hf
  · exact blockInv_keyStep hs hc
  · exact blockInv_timerStep hs hc
  · exact blockInv_takeInterrupt hs hi .vKey
  · exact blockInv_takeInterrupt hs hi .vTmr
  · exact { hs with div_ok := DividersOk.set hs.div_ok (hs.div_ok k) }
  · exact blockInv_expire hs k
  · exact blockInv_inputChange hs rows pin
  · exact blockInv_hardwareReset s

end Moves

/-- Settles O57: using the move up keeps the invariant, and so does each of the moves. -/
theorem everyStepKeepsTheInvariant : Obligations.EveryStepKeepsTheInvariant :=
  fun _ _ hs h => blockInv_turn (blockInv_consumeEvent hs) h

end Sys2Proof.Machine
end

section
/-! PROOFS. Who writes the result buffers, the flags `input_done` and `show_done`, the vector table and the display: what each
move makes of these registers, said once, and the three statements read off it (O50, O51, O52). -/

namespace Sys2Proof.Machine

open Sys2Proof

/-- A step is a move made in the same block: only the moves to come and the result word differ (logs 1, 4). -/
theorem step_eq_turn (s : State) :
    ∃ es n, step s = turn s.nextEvent { s with sched := es, tick := n, res := none } := by
  unfold step State.consumeEvent
  split
  · exact ⟨_, _, rfl⟩
  · exact ⟨_, _, rfl⟩

/-- The registers that few moves write: the result buffers (R23), the flags (R24), the vector table (R37), the display and its
trace (R46). -/
structure GameRegs where
  pwd : Vector Byte 4
  guess : Vector Byte 4
  inputDone : Bool
  showDone : Bool
  vec : Vector VecEntry 8
  disp : Byte
  trace : List Byte

/-- Their values in a state. -/
@[simps] def State.gameRegs (s : State) : GameRegs :=
  { pwd := s.pwd, guess := s.guess, inputDone := s.inputDone, showDone := s.showDone, vec := s.ic.vec, disp := s.disp,
    trace := s.trace }

/-- What the move `e` makes of these registers. -/
inductive GameRegsTurn (e : Event) (s t : State) : Prop
  | kept (h : t.gameRegs = s.gameRegs)
  | reset (he : e = .rst) (h : t.gameRegs = State.reset.gameRegs)
  | setup (w : CommandWord) (he : e = .foreground) (hp : s.port = some w) (hd : decodeCommand w = .ok .fsmSetup)
      (h : t.gameRegs =
        { pwd := #v[0#8, 0#8, 0#8, 0#8], guess := #v[0#8, 0#8, 0#8, 0#8], inputDone := false, showDone := false,
          vec := (s.ic.vec.set 0 .vTmr).set 6 .vKey, disp := s.disp, trace := s.trace })
  | display (v : Byte) (he : e = .foreground) (h : t.gameRegs = { s.gameRegs with disp := v, trace := s.trace ++ [v] })
  | clearInput (he : e = .foreground) (hf : s.fpc = .capClear) (h : t.gameRegs = { s.gameRegs with inputDone := false })
  | clearShow (he : e = .foreground) (hf : s.fpc = .pbClear) (h : t.gameRegs = { s.gameRegs with showDone := false })
  | setInput (he : e = .handler) (hh : s.hpc = .kScan) (h : t.gameRegs = { s.gameRegs with inputDone := true })
  | setShow (he : e = .handler) (hh : s.hpc = .tBody) (h : t.gameRegs = { s.gameRegs with showDone := true })
  | play (v : Byte) (he : e = .handler) (hh : s.hpc = .tBody)
      (h : t.gameRegs =
        { s.gameRegs with
          pwd := if s.target = .tPwd then s.pwd.setIfInBounds s.played.toNat v else s.pwd
          guess := if s.target = .tGuess then s.guess.setIfInBounds s.played.toNat v else s.guess
          disp := v
          trace := s.trace ++ [v] })

theorem loopStep_gameRegs {s : State} (hf : s.fpc ≠ .idle) : GameRegsTurn .foreground s (loopStep s) := by
  rcases loopStep_cases hf with ⟨-, e⟩ | ⟨-, e⟩ | ⟨-, e⟩ | ⟨h, e⟩ | ⟨-, e⟩ | ⟨-, -, e⟩ | ⟨-, -, e⟩ | ⟨-, -, e⟩ | ⟨-, -, e⟩ |
    ⟨-, e⟩ | ⟨h, e⟩ | ⟨-, e⟩ | ⟨-, e⟩ | ⟨-, -, e⟩ | ⟨-, -, e⟩ | ⟨-, g, v, -, e⟩
  all_goals rw [e]
  · exact .display _ rfl rfl
  · exact .display _ rfl rfl
  · exact .kept rfl
  · exact .clearInput rfl h rfl
  · exact .kept rfl
  · exact .kept rfl
  · exact .kept rfl
  · exact .kept rfl
  · exact .kept rfl
  · exact .kept rfl
  · exact .clearShow rfl h rfl
  · exact .kept rfl
  · exact .kept rfl
  · exact .kept rfl
  · exact .kept rfl
  · exact .display v rfl rfl

theorem keyStep_gameRegs {s : State} (hc : contextOf s.hpc = .key) : GameRegsTurn .handler s (keyStep s) := by
  rcases keyStep_cases hc with ⟨-, e⟩ | ⟨h, -, e⟩ | ⟨-, -, -, e⟩ | ⟨-, -, -, e⟩ | ⟨-, -, e⟩ | ⟨-, -, e⟩ | ⟨-, e⟩ | ⟨-, e⟩
  all_goals rw [e]
  · exact .kept rfl
  · exact .setInput rfl h rfl
  all_goals exact .kept rfl

theorem timerStep_gameRegs {s : State} (hc : contextOf s.hpc = .tmr) : GameRegsTurn .handler s (timerStep s) := by
  rcases timerStep_cases hc with ⟨h, -, e⟩ | ⟨-, -, -, e⟩ | ⟨h, -, v, r, -, e⟩ | ⟨-, e⟩
  all_goals rw [e]
  · exact .setShow rfl h rfl
  · exact .kept rfl
  · exact .play v rfl h rfl
  · exact .kept rfl

/-- Only the sequencers, `FSM.SETUP` and reset write these registers: every other move keeps them. -/
theorem turn_gameRegs {e : Event} {s t : State} (h : turn e s = .next t) : GameRegsTurn e s t := by
  rcases turn_cases h with ⟨w, -, rfl⟩ | rfl | ⟨he, -, -, w, hp, hw⟩ | ⟨rfl, -, hf, rfl⟩ | ⟨rfl, hc, rfl⟩ | ⟨rfl, hc, rfl⟩ |
    ⟨l, -, -, -, -, rfl⟩ | ⟨l, -, -, -, -, rfl⟩ | ⟨k, -, -, -, rfl⟩ | ⟨k, -, -, -, rfl⟩ | ⟨rows, pin, -, rfl⟩ | ⟨he, rfl⟩
  · unfold present
    split <;> exact .kept rfl
  · exact .kept rfl
  · rcases hw with ⟨-, rfl⟩ | ⟨hd, rfl⟩ | ⟨-, rfl⟩ | ⟨i, -, -, -, -, ht⟩
    · exact .kept rfl
    · refine .setup w he hp hd ?_
      rw [setupInterrupts_eq, setupState_eq]
      rfl
    · exact .kept rfl
    · rw [ht]
      exact .kept rfl
  · exact loopStep_gameRegs hf
  · exact keyStep_gameRegs hc
  · exact timerStep_gameRegs hc
  · exact .kept rfl
  · exact .kept rfl
  · exact .kept rfl
  · exact .kept rfl
  · unfold inputChange
    dsimp only
    split <;> exact .kept rfl
  · exact .reset he rfl

/-- The registers after a step, by the move it made. -/
theorem step_gameRegs {s t : State} (h : step s = .next t) : GameRegsTurn s.nextEvent s t := by
  obtain ⟨es, n, hs⟩ := step_eq_turn s
  rw [hs] at h
  cases turn_gameRegs h with
  | kept h => exact .kept h
  | reset he h => exact .reset he h
  | setup w he hp hd h => exact .setup w he hp hd h
  | display v he h => exact .display v he h
  | clearInput he hf h => exact .clearInput he hf h
  | clearShow he hf h => exact .clearShow he hf h
  | setInput he hh h => exact .setInput he hh h
  | setShow he hh h => exact .setShow he hh h
  | play v he hh h => exact .play v he hh h

/-- Settles O50: only a played byte, `FSM.SETUP` and reset touch the buffers, only the latter two the vector table. -/
theorem vectorsAndResultBuffersHaveTheirWritersOnly : Obligations.VectorsAndResultBuffersHaveTheirWritersOnly := by
  intro s t hstep
  cases step_gameRegs hstep with
  | reset he _ => exact ⟨fun _ => .inl he, fun _ => .inl he⟩
  | setup w he hp hd h => exact ⟨fun _ => .inr ⟨he, w, hp, hd⟩, fun _ => .inr (.inl ⟨he, w, hp, hd⟩)⟩
  | play v he hh h =>
    obtain ⟨hpwd, hguess, -, -, hvec, -, -⟩ := GameRegs.mk.inj h
    exact ⟨fun hv => absurd hvec hv, fun _ => .inr (.inr ⟨he, hh,
      fun hne => by_contra fun hn => hne (hpwd.trans (if_neg hn)),
      fun hne => by_contra fun hn => hne (hguess.trans (if_neg hn))⟩)⟩
  | kept h | display v he h | clearInput he hf h | clearShow he hf h | setInput he hh h | setShow he hh h =>
    obtain ⟨hpwd, hguess, -, -, hvec, -, -⟩ := GameRegs.mk.inj h
    exact ⟨fun hv => absurd hvec hv, fun hb => hb.elim (absurd hpwd) (absurd hguess)⟩

/-- Settles O51: the move that set or cleared a flag is read off the table of moves; the others keep it. -/
theorem flagsHaveTheirWritersOnly : Obligations.FlagsHaveTheirWritersOnly := by
  intro s t hstep
  cases step_gameRegs hstep with
  | kept h | display v he h | play v he hh h =>
    obtain ⟨-, -, hinput, hshow, -, -, -⟩ := GameRegs.mk.inj h
    simp +contextual [hinput, hshow]
  | reset he h =>
    obtain ⟨-, -, hinput, hshow, -, -, -⟩ := GameRegs.mk.inj h
    simp [hinput, hshow, he, State.reset]
  | setup w he hp hd h =>
    obtain ⟨-, -, hinput, hshow, -, -, -⟩ := GameRegs.mk.inj h
    simp [hinput, hshow, he, hp, hd]
  | clearInput he hf h | clearShow he hf h | setInput he hf h | setShow he hf h =>
    obtain ⟨-, -, hinput, hshow, -, -, -⟩ := GameRegs.mk.inj h
    simp +contextual [hinput, hshow, he, hf]

/-- Settles O52: the display is written with its trace. -/
theorem displayTraceOnlyGrows : Obligations.DisplayTraceOnlyGrows := by
  intro s t hstep hr
  cases step_gameRegs hstep with
  | reset he _ => exact absurd he hr
  | display v he h | play v he hh h =>
    obtain ⟨-, -, -, -, -, hdisp, htrace⟩ := GameRegs.mk.inj h
    right
    rw [htrace, hdisp]
  | kept h | setup w he hp hd h | clearInput he hf h | clearShow he hf h | setInput he hh h | setShow he hh h =>
    obtain ⟨-, -, -, -, -, hdisp, htrace⟩ := GameRegs.mk.inj h
    exact .inl ⟨htrace, hdisp⟩

end Sys2Proof.Machine
end

section
/-! PROOFS. The read-back map (10_state.md R47): the codes a read shows, and O32. -/

namespace Sys2Proof.Machine

open Sys2Proof

theorem flagCode_eq_ofBool (b : Bool) : flagCode b = (BitVec.ofBool b).setWidth 16 := by
  cases b <;> rfl

/-- Bits `[2l+1:2l]` of `IC_VEC` are the entry of line `l` (R37). -/
theorem extractLsb'_vecWord (ic : IntCtl) (l : Fin 8) :
    (vecWord ic).extractLsb' (2 * l.val) 2 = vecCode ic.vec[l.val] := by
  change BitVec.extractLsb' (n := 2 + 2 + 2 + 2 + 2 + 2 + 2 + 2) (2 * l.val) 2 (vecWord ic) = _
  unfold vecWord
  apply BitVec.eq_of_getLsbD_eq
  intro i hi
  rw [BitVec.getLsbD_extractLsb']
  simp only [BitVec.getLsbD_append]
  have hbit : i = 0 ∨ i = 1 := by omega
  rcases hbit with rfl | rfl <;> fin_cases l <;> simp

/-- Numbers 0x40 to 0x6F read register `k` of timer `t` (R39, R47). -/
theorem readReg_timer (s : State) {n k : Nat} (t : Fin 6) (hn : n = 0x40 + 8 * t.val + k) (hk : k < 8) :
    readReg s n = readTimer s.tm[t.val] k := by
  have hdiv : (n - 0x40) / 8 = t.val := by omega
  have hmod : (n - 0x40) % 8 = k := by omega
  unfold readReg
  rw [if_neg (by omega), if_neg (by omega), if_neg (by omega), if_neg (by omega), if_pos (by omega), hdiv, hmod]
  simp

/-- Numbers from 0x90 on read the result registers by their offset (R23, R46, R47). -/
theorem readReg_result (s : State) {n k : Nat} (hn : n = 0x90 + k) : readReg s n = readResult s k := by
  subst hn
  unfold readReg
  simp (disch := omega) only [if_neg]
  simp

/-- Settles O32: every number is looked up in its block of the map; an enumerated register shows the code of its value. -/
theorem registerMapReadsEachRegister : Obligations.RegisterMapReadsEachRegister := by
  intro s
  refine ⟨rfl, rfl, congrArg some (flagCode_eq_ofBool _), rfl, ?ringStorage, rfl, rfl, rfl, rfl, ?vectors, ?prescalers,
    ?timers, ?keyRows, congrArg some (flagCode_eq_ofBool _), congrArg some (flagCode_eq_ofBool _),
    congrArg some (flagCode_eq_ofBool _), rfl, ?target, rfl, congrArg some (flagCode_eq_ofBool _), rfl, ?gs, ?fpc, ?hpc,
    ?password, ?guess, rfl⟩
  case ringStorage => exact fun | 0 => rfl | 1 => rfl | 2 => rfl | 3 => rfl
  case prescalers => exact fun | 0 => rfl | 1 => rfl | 2 => rfl
  case keyRows => exact fun | 0 => rfl | 1 => rfl | 2 => rfl | 3 => rfl
  case password =>
    intro i
    rw [readReg_result s (k := i.val) rfl, readResult, if_pos i.isLt]
    simp
  case guess =>
    intro i
    rw [readReg_result s (k := 4 + i.val) (by omega), readResult, if_neg (by omega), if_pos (by omega)]
    simp
  case vectors =>
    refine ⟨vecWord s.ic, rfl, fun l => ?_⟩
    rw [extractLsb'_vecWord]
    cases s.ic.vec[l.val] <;> rfl
  case timers =>
    intro t
    refine ⟨?_, ?_, ?_, readReg_timer s t (k := 3) (by omega) (by omega), readReg_timer s t (k := 4) (by omega) (by omega),
      readReg_timer s t (k := 5) (by omega) (by omega), readReg_timer s t (k := 6) (by omega) (by omega),
      readReg_timer s t (k := 7) (by omega) (by omega)⟩
    · rw [readReg_timer s t (k := 0) (by omega) (by omega), readTimer]
      cases s.tm[t.val].div <;> rfl
    · rw [readReg_timer s t (k := 1) (by omega) (by omega), readTimer]
      cases s.tm[t.val].mode <;> rfl
    · rw [readReg_timer s t (k := 2) (by omega) (by omega), readTimer, flagCode_eq_ofBool]
  case target =>
    show some ((targetCode s.target).setWidth 16) = _
    cases s.target <;> rfl
  case gs =>
    show some ((gameCode s.gs).setWidth 16) = _
    cases s.gs <;> rfl
  case fpc =>
    show some ((fpcCode s.fpc).setWidth 16) = _
    cases s.fpc <;> rfl
  case hpc =>
    show some ((hpcCode s.hpc).setWidth 16) = _
    cases s.hpc <;> rfl

end Sys2Proof.Machine
end

section
/-! PROOFS. The frame of the three byte spaces (20_memory.md R70 to R72): what each operation and each instruction leaves as it
read, and O53. -/

namespace Sys2Proof.Machine

open Sys2Proof

/-- A byte of a space is read from that space's storage only (R71, R72). -/
theorem memRead_congr {s t : State} (hbuf : t.rb.buf = s.rb.buf) (hpwd : t.pwd = s.pwd) (hguess : t.guess = s.guess)
    (sp : Space) (k : Fin 4) : memRead sp k t = memRead sp k s := by
  cases sp <;> simp only [memRead, hbuf, hpwd, hguess]

/-! ### The operations that store, and the pop -/

theorem RingBuffer.put_buf (r : RingBuffer) (v : Byte) : (r.put v).buf = r.buf.set (slot r.startIdx).val v := by
  unfold RingBuffer.put
  split <;> rfl

theorem RingBuffer.get_buf {r q : RingBuffer} {v : Byte} (h : r.get = some (v, q)) : q.buf = r.buf := by
  unfold RingBuffer.get at h
  split at h <;> cases h
  rfl

/-- A put stores at `rb_start` and nowhere else (R112). -/
theorem memRead_withRb_put {s : State} {sp : Space} {k : Fin 4} (v : Byte) (hk : ¬ (sp = .buf ∧ k = slot s.rb.startIdx)) :
    memRead sp k (s.withRb (s.rb.put v)) = memRead sp k s := by
  cases sp with
  | buf =>
    have hne : (slot s.rb.startIdx).val ≠ k.val := fun e => hk ⟨rfl, Fin.ext e.symm⟩
    simp only [memRead, State.withRb_rb, RingBuffer.put_buf]
    exact Vector.getElem_set_ne _ _ hne
  | pwd | guess => rfl

/-- A store made under a condition leaves every element but the one it names under that condition (R72, R228). -/
theorem getElem_ite_setIfInBounds {c : Prop} [Decidable c] (b : Vector Byte 4) (n : Nat) (v : Byte) {k : Fin 4}
    (hk : ¬ (k.val = n ∧ c)) : (if c then b.setIfInBounds n v else b)[k.val] = b[k.val] := by
  split_ifs with hc
  · exact Vector.getElem_setIfInBounds_ne _ fun e => hk ⟨e.symm, hc⟩
  · rfl

/-! ### The instructions -/

/-- No micro-step of `FSM.LOOP` stores into the ring buffer: its reset moves the indices only (R111, R196). -/
theorem loopStep_buf (s : State) : (loopStep s).rb.buf = s.rb.buf := by
  by_cases hf : s.fpc = .idle
  · simp [loopStep, hf, loopAccept]
  · rcases loopStep_cases hf with ⟨-, e⟩ | ⟨-, e⟩ | ⟨-, e⟩ | ⟨-, e⟩ | ⟨-, e⟩ | ⟨-, -, e⟩ | ⟨-, -, e⟩ | ⟨-, -, e⟩ | ⟨-, -, e⟩ |
      ⟨-, e⟩ | ⟨-, e⟩ | ⟨-, e⟩ | ⟨-, e⟩ | ⟨-, -, e⟩ | ⟨-, -, e⟩ | ⟨-, g, v, -, e⟩
    all_goals exact (congrArg (fun q : State => q.rb.buf) e :)

/-- Of the plain commands only `RB.PUT` stores into the ring buffer (R110 to R117). -/
theorem exec_plain_buf {i : Instr} {s t : State} (h : exec i s = .next t) (h1 : i ≠ .fsmSetup) (h2 : i ≠ .fsmLoop)
    (h3 : i ≠ .keyIsr) (h4 : i ≠ .timerIsr) (h5 : ∀ a, i ≠ .rbPut a) : t.rb.buf = s.rb.buf := by
  cases i
  case fsmSetup => exact absurd rfl h1
  case fsmLoop => exact absurd rfl h2
  case keyIsr => exact absurd rfl h3
  case timerIsr => exact absurd rfl h4
  case rbPut a => exact absurd rfl (h5 a)
  case rbGet =>
    simp only [exec, execRbGet, done, failed] at h
    split at h <;> cases h
    · exact RingBuffer.get_buf ‹_›
    · rfl
  case tmCfgPeriod a b c =>
    simp only [exec, execTmCfgPeriod, done, failed, tmCfgPeriod_eq] at h
    split at h <;> cases h <;> rfl
  all_goals
    simp only [exec, execSysRegrd, execRbInit, execRbReset, execRbIsEmpty, execRbIsFull, execRbSize, execRbCapacity,
      execIcReset, execIcCfgGlobal, execIcCfgFiq, execIcSetMode, execIcEnable, execIcDisable, execIcAck,
      execTmSetPrescaler, execTmSetDivider, execTmSetCount, execTmSetMode, execTmCommit, execTmStart, execTmStop,
      execTmIsRunning, execKmScan, done, failed] at h
    (repeat' split at h) <;> cases h <;> rfl

/-- Away from its own positions `key_isr` is entered or does nothing (R262, R266). -/
theorem keyStep_of_not_key {s : State} (hc : contextOf s.hpc ≠ .key) :
    keyStep s = takeInterrupt .vKey s ∨ keyStep s = s := by
  unfold keyStep
  cases hh : s.hpc <;> simp [hh, contextOf] at hc ⊢

/-- Away from its own positions `timer_isr` is entered or does nothing (R262, R266). -/
theorem timerStep_of_not_tmr {s : State} (hc : contextOf s.hpc ≠ .tmr) :
    timerStep s = takeInterrupt .vTmr s ∨ timerStep s = s := by
  unfold timerStep
  cases hh : s.hpc <;> simp [hh, contextOf] at hc ⊢

/-- An instruction that is no put, no `FSM.SETUP` and no handler stores no byte: `FSM.LOOP` by its frame, the others by
theirs. -/
theorem memRead_exec_of_not_store {i : Instr} {s t : State} (h : exec i s = .next t) (hsetup : i ≠ .fsmSetup)
    (hkey : i ≠ .keyIsr) (htmr : i ≠ .timerIsr) (hput : ∀ a, i ≠ .rbPut a) (sp : Space) (k : Fin 4) :
    memRead sp k t = memRead sp k s := by
  by_cases hloop : i = .fsmLoop
  · subst hloop
    cases h
    have hframe := loopStep_frame s
    exact memRead_congr (loopStep_buf s) (congrArg State.pwd hframe :) (congrArg State.guess hframe :) sp k
  · have hframe := exec_plain_frame h hsetup hloop hkey htmr
    have hbuf := exec_plain_buf h hsetup hloop hkey htmr hput
    exact memRead_congr hbuf (congrArg State.pwd hframe :) (congrArg State.guess hframe :) sp k

/-- `key_isr` stores only where its scan puts a key code (R222). -/
theorem memRead_keyStep {s : State} {sp : Space} {k : Fin 4}
    (hk : ¬ (s.hpc = .kScan ∧ sp = .buf ∧ k = slot s.rb.startIdx)) : memRead sp k (keyStep s) = memRead sp k s := by
  by_cases hc : contextOf s.hpc = .key
  · rcases keyStep_cases hc with ⟨-, e⟩ | ⟨-, -, e⟩ | ⟨-, -, -, e⟩ | ⟨hscan, -, -, e⟩ | ⟨-, -, e⟩ | ⟨-, -, e⟩ | ⟨-, e⟩ |
      ⟨-, e⟩
    on_goal 4 =>
      rw [e]
      exact memRead_withRb_put _ fun hcell => hk ⟨hscan, hcell⟩
    all_goals exact memRead_congr (by rw [e]) (by rw [e]) (by rw [e]) sp k
  · rcases keyStep_of_not_key hc with e | e <;> rw [e]
    exact memRead_congr rfl rfl rfl sp k

/-- `timer_isr` stores only where its body plays a byte (R228). -/
theorem memRead_timerStep {s : State} {sp : Space} {k : Fin 4}
    (hk : ¬ (s.hpc = .tBody ∧ k.val = s.played.toNat ∧
      ((sp = .pwd ∧ s.target = .tPwd) ∨ (sp = .guess ∧ s.target = .tGuess)))) :
    memRead sp k (timerStep s) = memRead sp k s := by
  by_cases hc : contextOf s.hpc = .tmr
  · rcases timerStep_cases hc with ⟨-, -, e⟩ | ⟨-, -, -, e⟩ | ⟨hbody, -, v, r, hg, e⟩ | ⟨-, e⟩
    all_goals rw [e]
    · exact memRead_congr rfl rfl rfl sp k
    · exact memRead_congr rfl rfl rfl sp k
    · cases sp with
      | buf => simp only [memRead, RingBuffer.get_buf hg]
      | pwd => exact getElem_ite_setIfInBounds _ _ _ fun ⟨hcell, ht⟩ => hk ⟨hbody, hcell, .inl ⟨rfl, ht⟩⟩
      | guess => exact getElem_ite_setIfInBounds _ _ _ fun ⟨hcell, ht⟩ => hk ⟨hbody, hcell, .inr ⟨rfl, ht⟩⟩
    · exact memRead_congr rfl rfl rfl sp k
  · rcases timerStep_of_not_tmr hc with e | e <;> rw [e]
    exact memRead_congr rfl rfl rfl sp k

/-- Settles O53: one frame of the byte spaces for each of the four kinds of instruction. -/
theorem byteSpacesKeepWhatIsNotStored : Obligations.ByteSpacesKeepWhatIsNotStored := by
  intro i s t h
  refine ⟨memRead_exec_of_not_store h, ?_, ?_, ?_⟩
  · rintro ⟨a, rfl⟩ sp k hk
    cases h
    exact memRead_withRb_put a hk
  · rintro rfl sp k hk
    cases h
    exact memRead_keyStep hk
  · rintro rfl sp k hk
    cases h
    exact memRead_timerStep hk

end Sys2Proof.Machine
end

section
/-! PROOFS. Encodings and the command port: `encode` against the opcode map, the mask table of R91 against the opcode map, and
how the foreground's turn takes the waiting word (O1 to O6, O9). -/

namespace Sys2Proof

/-- An instruction decodes from its encoding when the opcode's row builds it from the fields put in the word (R95). -/
theorem decode_encode_of_row {i : Instr} {op a : Byte} {b c : Half} {r : OpcodeRow}
    (he : encode i = .command (commandWord op a b c)) (hr : opcodeRow op = some r)
    (hu : unusedZero r.format a b c = true) (hi : r.build a b c = i) : decode (encode i) = .ok i := by
  rw [he]
  exact (decodeCommand_ok_iff _ _).mpr ⟨r, by simpa using hr, by simpa using hu, by simpa using hi⟩

/-- Settles O1: the handlers by their two identifiers, each command by its row of the opcode map. -/
theorem decodeOfEncodeIsTheInstruction : Obligations.DecodeOfEncodeIsTheInstruction := by
  intro i
  cases i
  case keyIsr | timerIsr => rfl
  all_goals exact decode_encode_of_row rfl rfl rfl rfl

/-- The encoding of what a row builds carries the row's opcode and the fields it was built from. -/
theorem encode_build {r : OpcodeRow} (hr : r ∈ opcodeMap) {a : Byte} {b c : Half} (hu : unusedZero r.format a b c = true) :
    encode (r.build a b c) = .command (commandWord r.op a b c) := by
  fin_cases hr <;> simp_all [unusedZero, encode]

theorem encode_of_decodeCommand {w : CommandWord} {i : Instr} (h : decodeCommand w = .ok i) : encode i = .command w := by
  obtain ⟨r, hr, hu, rfl⟩ := (decodeCommand_ok_iff w i).mp h
  obtain ⟨hmem, hop⟩ := opcodeRow_some hr
  rw [encode_build hmem hu, hop, commandWord_fields]

theorem encode_of_decodeVector {id : VectorId} {i : Instr} (h : decodeVector id = .ok i) : encode i = .vector id := by
  unfold decodeVector at h
  split_ifs at h with hkey htmr
  · cases h
    rw [hkey]
    rfl
  · cases h
    rw [htmr]
    rfl

/-- Settles O2, for the two kinds of encoding. -/
theorem encodeOfDecodeIsTheWord : Obligations.EncodeOfDecodeIsTheWord := by
  intro e i h
  cases e with
  | command w => exact encode_of_decodeCommand h
  | vector id => exact encode_of_decodeVector h

/-- The mask of a format: ones on the opcode and on the unused fields (R91). -/
def Format.mask : Format → CommandWord
  | .n => commandWord 0xFF#8 0xFF#8 0xFFFF#16 0xFFFF#16
  | .a => commandWord 0xFF#8 0#8 0xFFFF#16 0xFFFF#16
  | .ab => commandWord 0xFF#8 0#8 0#16 0xFFFF#16
  | .abc => commandWord 0xFF#8 0#8 0#16 0#16

theorem commandWord_and (o o' a a' : Byte) (b b' c c' : Half) :
    commandWord o a b c &&& commandWord o' a' b' c' = commandWord (o &&& o') (a &&& a') (b &&& b') (c &&& c') := by
  unfold commandWord
  rw [BitVec.and_append, BitVec.and_append, BitVec.and_append]

theorem commandWord_inj {o o' a a' : Byte} {b b' c c' : Half} :
    commandWord o a b c = commandWord o' a' b' c' ↔ o = o' ∧ a = a' ∧ b = b' ∧ c = c' := by
  constructor
  · intro h
    exact ⟨by simpa using congrArg opField h, by simpa using congrArg aField h, by simpa using congrArg bField h,
      by simpa using congrArg cField h⟩
  · rintro ⟨rfl, rfl, rfl, rfl⟩
    rfl

theorem commandWord_and_mask (f : Format) (o op a : Byte) (b c : Half) :
    commandWord o a b c &&& f.mask = commandWord op 0#8 0#16 0#16 ↔ o = op ∧ unusedZero f a b c = true := by
  have h8 (x : Byte) : x &&& 0xFF#8 = x := BitVec.and_allOnes
  have h16 (x : Half) : x &&& 0xFFFF#16 = x := BitVec.and_allOnes
  cases f <;> simp [Format.mask, commandWord_and, commandWord_inj, unusedZero, and_assoc, h8, h16]

/-- What a format's mask leaves of a word is `op << 40` exactly when the word has that opcode and zeros in the fields the
format leaves unused (R91). -/
theorem and_mask_eq_iff (f : Format) (w : CommandWord) (op : Byte) :
    w &&& f.mask = commandWord op 0#8 0#16 0#16 ↔
      opField w = op ∧ unusedZero f (aField w) (bField w) (cField w) = true := by
  rw [← commandWord_and_mask, commandWord_fields]

/-- The row of the opcode map that is of the same command as a row of the mask table: the match value is `op << 40`, the mask
is that of the format, and the command's instructions are those the row builds (R91, R95). -/
structure MaskRow.Describes (row : MaskRow) (r : OpcodeRow) : Prop where
  opcodeRow_eq : opcodeRow (opField row.pattern) = some r
  pattern_eq : row.pattern = commandWord (opField row.pattern) 0#8 0#16 0#16
  mask_eq : row.mask = r.format.mask
  stands_build : ∀ a b c, row.stands (r.build a b c) = true
  encode_of_stands : ∀ i, row.stands i = true → ∃ a b c, encode i = .command (commandWord (opField row.pattern) a b c)

theorem exists_describes {row : MaskRow} (h : row ∈ maskTable) : ∃ r, row.Describes r := by
  fin_cases h
  all_goals
    refine ⟨_, rfl, rfl, rfl, fun _ _ _ => rfl, fun i hi => ?_⟩
    dsimp only at hi
    split at hi
    · exact ⟨_, _, _, rfl⟩
    · cases hi

/-- Only words with the row's opcode decode to an instruction of the row's command. -/
theorem MaskRow.Describes.opField_eq {row : MaskRow} {r : OpcodeRow} (h : row.Describes r) {w : CommandWord} {i : Instr}
    (hd : decodeCommand w = .ok i) (hi : row.stands i = true) : opField w = opField row.pattern := by
  obtain ⟨a, b, c, he⟩ := h.encode_of_stands i hi
  rw [encode_of_decodeCommand hd] at he
  rw [Encoded.command.inj he, opField_commandWord]

/-- Settles O3: by both sides the word has the row's opcode and zeros in the unused fields. -/
theorem maskedWordSelectsItsCommand : Obligations.MaskedWordSelectsItsCommand := by
  intro w row hrow
  obtain ⟨r, hr⟩ := exists_describes hrow
  rw [hr.mask_eq, hr.pattern_eq, and_mask_eq_iff]
  constructor
  · rintro ⟨hop, hu⟩
    exact ⟨_, (decodeCommand_ok_iff w _).mpr ⟨r, hop ▸ hr.opcodeRow_eq, hu, rfl⟩, hr.stands_build _ _ _⟩
  · rintro ⟨i, hd, hi⟩
    have hop := hr.opField_eq hd hi
    obtain ⟨r', hr', hu, -⟩ := (decodeCommand_ok_iff w i).mp hd
    rw [hop, hr.opcodeRow_eq] at hr'
    cases hr'
    exact ⟨hop, hu⟩

/-- Every command has a row of the mask table; the handlers have none (R97). -/
theorem exists_maskRow {i : Instr} (hkey : i ≠ .keyIsr) (htmr : i ≠ .timerIsr) : ∃ row ∈ maskTable, row.stands i = true := by
  rw [← List.any_eq_true]
  cases i
  case keyIsr => exact absurd rfl hkey
  case timerIsr => exact absurd rfl htmr
  all_goals rfl

/-- A word that no row of the mask table selects decodes to no command (R96). -/
theorem decodeCommand_error_of_unselected {w : CommandWord} (h : ∀ row ∈ maskTable, w &&& row.mask ≠ row.pattern) :
    ∃ e, decodeCommand w = .error e := by
  cases hd : decodeCommand w with
  | error e => exact ⟨e, rfl⟩
  | ok i =>
    obtain ⟨hkey, htmr⟩ := decodeCommand_not_handler hd
    obtain ⟨row, hrow, hi⟩ := exists_maskRow hkey htmr
    exact absurd ((maskedWordSelectsItsCommand w row hrow).mpr ⟨i, hd, hi⟩) (h row hrow)

/-- Settles O5, by evaluating the decoder. -/
theorem sampleEncodingsDecode : Obligations.SampleEncodingsDecode :=
  ⟨rfl, rfl, rfl, rfl, rfl, rfl, rfl, rfl⟩

namespace Machine

/-- With both sequencers idle and a word waiting, the foreground's turn accepts it (R101). -/
theorem step_eq_accept {s : State} {w : CommandWord} (he : s.nextEvent = .foreground) (hh : s.hpc = .idle)
    (hf : s.fpc = .idle) (hp : s.port = some w) : step s = accept w { s.consumeEvent with port := none } := by
  unfold step turn foregroundTurn
  simp [he, hh, hf, hp]

/-- Settles O4: no row selects the word, so it does not decode, and its acceptance answers `ILLEGAL`. -/
theorem illegalWordAnswersIllegal : Obligations.IllegalWordAnswersIllegal := by
  intro s w he hh hf hp hrows
  obtain ⟨e, hd⟩ := decodeCommand_error_of_unselected hrows
  rw [step_eq_accept he hh hf hp, accept, hd]
  rfl

/-- Settles O6: the acceptance of a word that decodes is `exec`; the next move is the first of the list, else a free one. -/
theorem stepRunsTheDecodedCommand : Obligations.StepRunsTheDecodedCommand := by
  constructor
  · intro s w i he hh hf hp hd
    rw [step_eq_accept he hh hf hp, accept, hd]
  · intro s
    constructor
    · intro e es h
      simp [State.nextEvent, State.consumeEvent, h]
    · intro h
      simp [State.nextEvent, State.consumeEvent, h]

/-- A move keeps a waiting word, but for the foreground's turn with both sequencers idle, which takes it (R101; log 3, log 6). -/
theorem turn_port {e : Event} {s t : State} {w : CommandWord} (hp : s.port = some w) (h : turn e s = .next t) :
    t.port = some w ∨ (t.port = none ∧ e = .foreground ∧ s.hpc = .idle ∧ s.fpc = .idle) := by
  rcases turn_cases h with ⟨v, -, rfl⟩ | rfl | ⟨he, hh, hf, v, -, hw⟩ | ⟨-, -, -, rfl⟩ | ⟨-, -, rfl⟩ | ⟨-, -, rfl⟩ |
    ⟨l, -, -, -, -, rfl⟩ | ⟨l, -, -, -, -, rfl⟩ | ⟨k, -, -, -, rfl⟩ | ⟨k, -, -, -, rfl⟩ | ⟨rows, pin, -, rfl⟩ | ⟨-, rfl⟩
  · left
    simp [present, hp]
  · exact .inl hp
  · have ht : t.port = none := by
      rcases hw with ⟨-, rfl⟩ | ⟨-, rfl⟩ | ⟨-, rfl⟩ | ⟨i, -, -, -, -, ht⟩
      · rfl
      · rw [setupInterrupts_eq, setupState_eq]
        rfl
      · rfl
      · rw [ht]
    exact .inr ⟨ht, he, hh, hf⟩
  · rw [loopStep_frame]
    exact .inl hp
  · rw [keyStep_frame]
    exact .inl hp
  · rw [timerStep_frame]
    exact .inl hp
  · exact .inl hp
  · exact .inl hp
  · exact .inl hp
  · exact .inl hp
  · unfold inputChange
    dsimp only
    split <;> exact .inl hp
  · exact .inl hp

/-- Settles O9: what `present` does on an empty and on a taken port, and what every other move does to a waiting word. -/
theorem waitingWordIsTakenOnlyWhenIdle : Obligations.WaitingWordIsTakenOnlyWhenIdle := by
  constructor
  · intro s w he
    constructor
    · intro hp
      simp [step, he, turn, present, hp]
    · intro hp
      obtain ⟨v, hv⟩ := Option.ne_none_iff_exists'.mp hp
      simp [step, he, turn, present, hv]
  · intro s t w hp h
    simpa using turn_port (by simpa using hp) h

end Machine

end Sys2Proof
end

section
/-! PROOFS. The ring buffer (40_ring_buffer.md): the exact effect of its commands, the FIFO law of R118, and what a sequence of
puts retains (O12 to O17). -/

namespace Sys2Proof.Machine

open Sys2Proof

/-! ### The operations on the registers -/

/-- The empty condition of R22 as a proposition. -/
theorem RingBuffer.isEmpty_eq_true_iff (r : RingBuffer) : r.isEmpty = true ↔ r.full = false ∧ r.startIdx = r.endIdx := by
  simp [RingBuffer.isEmpty]

theorem capacityOf_of_valid {a : Byte} (h : 1 ≤ a.toNat ∧ a.toNat ≤ 4) : capacityOf a = some (a.setWidth 3) := if_pos h

theorem capacityOf_of_not_valid {a : Byte} (h : ¬ (1 ≤ a.toNat ∧ a.toNat ≤ 4)) : capacityOf a = none := if_neg h

/-- R112 as one record update: the branch on `rb_full` moved into the two registers it decides. -/
theorem RingBuffer.put_eq (r : RingBuffer) (v : Byte) : r.put v = { r with
    buf := r.buf.set r.startIdx.toNat v r.startIdx.isLt
    startIdx := r.inc r.startIdx
    endIdx := if r.full then r.inc r.endIdx else r.endIdx
    full := r.full || r.inc r.startIdx == r.endIdx } := by
  obtain ⟨start, stop, full, cap, buf⟩ := r
  cases full <;> rfl

/-- Under the invariant the size is the length of the contents (R116, R118). -/
theorem RingBuffer.size_eq_length (r : RingBuffer) (hr : r.Inv) : r.size = r.contents.length := by
  obtain ⟨hnonneg, -⟩ := r.size_bounds hr
  rw [r.contents_length, Int.toNat_of_nonneg hnonneg]

theorem RingBuffer.contents_length_le (r : RingBuffer) (hr : r.Inv) : r.contents.length ≤ r.cap.toNat := by
  obtain ⟨-, hle, -⟩ := r.size_bounds hr
  rw [r.size_eq_length hr] at hle
  exact_mod_cast hle

theorem RingBuffer.full_iff (r : RingBuffer) (hr : r.Inv) : r.full = true ↔ r.contents.length = r.cap.toNat := by
  obtain ⟨-, -, hfull, -⟩ := r.size_bounds hr
  rw [← hfull, r.size_eq_length hr, Int.natCast_inj]

theorem RingBuffer.get_of_contents_nil {r : RingBuffer} (hr : r.Inv) (h : r.contents = []) : r.get = none := by
  simpa [h] using r.get_contents hr

theorem RingBuffer.get_of_contents_cons {r : RingBuffer} (hr : r.Inv) {b : Byte} {l : List Byte} (h : r.contents = b :: l) :
    ∃ q, r.get = some (b, q) ∧ q.Inv ∧ q.contents = l := by
  have hg := r.get_contents hr
  rw [h] at hg
  obtain ⟨⟨v, q⟩, hq, hv⟩ := Option.map_eq_some_iff.mp hg
  cases hv
  exact ⟨q, hq, r.get_inv hr hq, rfl⟩

/-! ### Sequences of puts -/

/-- A put keeps the last `rb_cap` bytes of the contents followed by the new one: both cases of R118 in one. -/
theorem RingBuffer.put_contents_eq_drop (r : RingBuffer) (hr : r.Inv) (b : Byte) :
    (r.put b).contents = (r.contents ++ [b]).drop ((r.contents ++ [b]).length - r.cap.toNat) := by
  have hle := r.contents_length_le hr
  have hpos := hr.cap_pos
  rw [r.put_contents hr, List.length_append, List.length_singleton]
  split_ifs with hlt
  · rw [Nat.sub_eq_zero_of_le hlt, List.drop_zero]
  · rw [show r.contents.length + 1 - r.cap.toNat = 1 by omega, List.drop_one, List.tail_append_of_ne_nil]
    exact List.ne_nil_of_length_pos (by omega)

theorem RingBuffer.foldl_put_inv {r : RingBuffer} (hr : r.Inv) (bs : List Byte) : (bs.foldl RingBuffer.put r).Inv :=
  List.foldlRecOn bs RingBuffer.put hr fun q hq b _ => q.put_inv hq b

theorem RingBuffer.foldl_put_cap (r : RingBuffer) (bs : List Byte) : (bs.foldl RingBuffer.put r).cap = r.cap :=
  List.foldlRecOn (motive := fun q => q.cap = r.cap) bs RingBuffer.put rfl fun q hq b _ => (q.put_cap b).trans hq

/-- Puts into any buffer keep the last `rb_cap` bytes of its contents followed by the bytes put. -/
theorem RingBuffer.foldl_put_contents {r : RingBuffer} (hr : r.Inv) (bs : List Byte) :
    (bs.foldl RingBuffer.put r).contents = (r.contents ++ bs).drop ((r.contents ++ bs).length - r.cap.toNat) := by
  induction bs generalizing r with
  | nil => rw [List.append_nil, Nat.sub_eq_zero_of_le (r.contents_length_le hr), List.drop_zero, List.foldl_nil]
  | cons b bs ih =>
    have hsplit : r.contents ++ b :: bs = r.contents ++ [b] ++ bs := by simp
    rw [List.foldl_cons, ih (r.put_inv hr b), r.put_contents_eq_drop hr, r.put_cap, hsplit,
      ← List.drop_append_of_le_length (Nat.sub_le _ _), List.drop_drop]
    congr 1
    simp only [List.length_drop, List.length_append, List.length_singleton]
    omega

theorem RingBuffer.foldl_put_contents_of_le {r : RingBuffer} (hr : r.Inv) (he : r.contents = []) {bs : List Byte}
    (hle : bs.length ≤ r.cap.toNat) : (bs.foldl RingBuffer.put r).contents = bs := by
  rw [RingBuffer.foldl_put_contents hr, he, List.nil_append, Nat.sub_eq_zero_of_le hle, List.drop_zero]

/-- Settles O17: the puts retain the last `rb_cap` bytes, and a buffer is full exactly when it holds `rb_cap` of them. -/
theorem putsRetainTheMostRecentBytes : Obligations.PutsRetainTheMostRecentBytes := by
  intro r bs hr
  have hcontents : (bs.foldl RingBuffer.put r.reset).contents = bs.drop (bs.length - r.cap.toNat) :=
    RingBuffer.foldl_put_contents (r.reset_inv hr) bs
  refine ⟨hcontents, ?_⟩
  rw [RingBuffer.full_iff _ (RingBuffer.foldl_put_inv (r.reset_inv hr) bs), hcontents, RingBuffer.foldl_put_cap,
    List.length_drop]
  change bs.length - (bs.length - r.cap.toNat) = r.cap.toNat ↔ r.cap.toNat ≤ bs.length
  omega

/-! ### The commands -/

theorem exec_rbInit_of_valid (s : State) {a : Byte} (h : 1 ≤ a.toNat ∧ a.toNat ≤ 4) :
    exec (.rbInit a) s = .next ((s.withRb (s.rb.init (a.setWidth 3))).withRes 0) := by
  simp only [exec, execRbInit, capacityOf_of_valid h, done]

theorem exec_rbPut (a : Byte) (s : State) : exec (.rbPut a) s = .next ((s.withRb (s.rb.put a)).withRes 0) := rfl

theorem exec_rbGet_of_some {s : State} {v : Byte} {q : RingBuffer} (h : s.rb.get = some (v, q)) :
    exec .rbGet s = .next ((s.withRb q).withRes (v.setWidth 32)) := by
  simp only [exec, execRbGet, h, done]

theorem exec_rbGet_of_none {s : State} (h : s.rb.get = none) :
    exec .rbGet s = .next { s with res := some 0xFFFFFFFE#32 } := by
  simp only [exec, execRbGet, h]
  rfl

/-- Settles O12, by whether the capacity is valid. -/
theorem rbInitAndResetEmptyTheBuffer : Obligations.RbInitAndResetEmptyTheBuffer := by
  intro s a
  refine ⟨?_, rfl⟩
  split_ifs with h
  · exact exec_rbInit_of_valid s h
  · simp only [exec, execRbInit, capacityOf_of_not_valid h]
    rfl

/-- Settles O13: the command replaces the buffer by what the put makes of it. -/
theorem rbPutWritesAndOverwritesOldest : Obligations.RbPutWritesAndOverwritesOldest := by
  intro s a
  rw [exec_rbPut, RingBuffer.put_eq]
  rfl

/-- Settles O14, by whether the buffer is empty. -/
theorem rbGetPopsOrAnswersEmpty : Obligations.RbGetPopsOrAnswersEmpty := by
  intro s
  simp only [← RingBuffer.isEmpty_eq_true_iff]
  split_ifs with h
  · exact exec_rbGet_of_none (if_pos h)
  · exact exec_rbGet_of_some (if_neg h)

/-- The result word of `RB.SIZE`, with the integers of R116 that are not negative as natural numbers. -/
theorem RingBuffer.ofInt_size (r : RingBuffer) : BitVec.ofInt 32 r.size =
    if r.full = true then BitVec.ofNat 32 r.cap.toNat
    else if r.endIdx.toNat ≤ r.startIdx.toNat then BitVec.ofNat 32 (r.startIdx.toNat - r.endIdx.toNat)
    else BitVec.ofInt 32 ((r.startIdx.toNat : Int) - r.endIdx.toNat + r.cap.toNat) := by
  unfold RingBuffer.size
  split_ifs with hfull hle
  · exact BitVec.ofInt_natCast _ _
  · rw [← Int.natCast_sub hle, BitVec.ofInt_natCast]
  · rfl

/-- Settles O15: each query is a result word and nothing else. -/
theorem rbQueriesReportTheBuffer : Obligations.RbQueriesReportTheBuffer := by
  intro s
  refine ⟨?_, rfl, ?_, ?_⟩
  · simp only [← RingBuffer.isEmpty_eq_true_iff]
    rfl
  · rw [← RingBuffer.ofInt_size]
    rfl
  · rw [BitVec.ofNat_toNat]
    rfl

/-! ### Sequences of commands -/

theorem runResults_append {is js : List Instr} {s t u : State} {rs qs : List (Option ResultWord)}
    (hs : runResults is s = some (rs, t)) (ht : runResults js t = some (qs, u)) :
    runResults (is ++ js) s = some (rs ++ qs, u) := by
  induction is generalizing s rs with
  | nil =>
    cases hs
    exact ht
  | cons i is ih =>
    rw [List.cons_append, runResults]
    rw [runResults] at hs
    cases hi : exec i s with
    | next v =>
      rw [hi] at hs
      obtain ⟨⟨rs', t'⟩, hv, he⟩ := Option.map_eq_some_iff.mp hs
      cases he
      simp [ih hv]
    | _ => simp [hi] at hs

/-- Puts as commands: each answers 0, and together they are the puts on the registers. -/
theorem runResults_puts (bs : List Byte) (s : State) :
    ∃ t, runResults (bs.map .rbPut) s = some (bs.map (fun _ => some 0#32), t) ∧ t.rb = bs.foldl RingBuffer.put s.rb := by
  induction bs generalizing s with
  | nil => exact ⟨s, rfl, rfl⟩
  | cons b bs ih =>
    obtain ⟨t, hrun, hrb⟩ := ih ((s.withRb (s.rb.put b)).withRes 0)
    refine ⟨t, ?_, hrb⟩
    simp only [List.map_cons, runResults, exec_rbPut, hrun]
    rfl

/-- Gets as commands: they answer the bytes of the contents in read order and leave the rest. -/
theorem runResults_gets {bs l : List Byte} {s : State} (hs : s.rb.Inv) (h : s.rb.contents = bs ++ l) :
    ∃ t, runResults (List.replicate bs.length .rbGet) s = some (bs.map (fun b => some (b.setWidth 32)), t) ∧
      t.rb.Inv ∧ t.rb.contents = l := by
  induction bs generalizing s with
  | nil => exact ⟨s, rfl, hs, h⟩
  | cons b bs ih =>
    obtain ⟨q, hget, hq, hrest⟩ := RingBuffer.get_of_contents_cons hs h
    obtain ⟨t, hrun, ht⟩ := @ih ((s.withRb q).withRes (b.setWidth 32)) hq hrest
    refine ⟨t, ?_, ht⟩
    simp only [List.length_cons, List.replicate_succ, runResults, exec_rbGet_of_some hget, hrun]
    rfl

/-- From empty contents, puts not exceeding the capacity come back by gets in the same order (R118). -/
theorem runResults_puts_gets {s : State} (hs : s.rb.Inv) (he : s.rb.contents = []) {bs : List Byte} {k : Nat}
    (hbs : bs.length ≤ s.rb.cap.toNat) (hk : k ≤ bs.length) :
    ∃ t, runResults (bs.map .rbPut ++ List.replicate k .rbGet) s =
        some (bs.map (fun _ => some 0#32) ++ (bs.take k).map (fun b => some (b.setWidth 32)), t) ∧
      t.rb.size = (bs.length : Int) - k := by
  obtain ⟨t, hput, hrb⟩ := runResults_puts bs s
  have ht : t.rb.Inv := hrb ▸ RingBuffer.foldl_put_inv hs bs
  have hcontents : t.rb.contents = bs.take k ++ bs.drop k := by
    rw [List.take_append_drop, hrb, RingBuffer.foldl_put_contents_of_le hs he hbs]
  obtain ⟨u, hget, hu, hrest⟩ := runResults_gets ht hcontents
  rw [List.length_take_of_le hk] at hget
  refine ⟨u, runResults_append hput hget, ?_⟩
  rw [u.rb.size_eq_length hu, hrest, List.length_drop, Int.natCast_sub hk]

/-- Settles O16: the clauses on one command from what each operation does to the contents, the last one by induction over
the puts and over the gets. -/
theorem ringBufferIsFirstInFirstOut : Obligations.RingBufferIsFirstInFirstOut := by
  intro s hs
  refine ⟨(s.rb.size_eq_length hs).symm, ?_, ?_, ?_, ?_, ?_, ?_⟩
  · exact fun b => ⟨_, rfl, s.rb.put_contents hs b⟩
  · intro b l h
    obtain ⟨q, hget, -, hrest⟩ := RingBuffer.get_of_contents_cons hs h
    exact ⟨_, exec_rbGet_of_some hget, rfl, hrest⟩
  · exact fun h => exec_rbGet_of_none (RingBuffer.get_of_contents_nil hs h)
  · exact ⟨_, rfl, s.rb.contents_reset⟩
  · exact fun a h1 h4 => ⟨_, exec_rbInit_of_valid s ⟨h1, h4⟩, s.rb.contents_init _⟩
  · exact fun he bs k hbs hk => runResults_puts_gets hs he hbs hk

end Sys2Proof.Machine
end

section
/-! PROOFS. The interrupt controller's commands (41_interrupt_controller.md R130 to R138): what each writes (O18, O19), and the
game's invariant after `FSM.SETUP`, which configures the controller last (O58). -/

namespace Sys2Proof.Machine

open Sys2Proof

/-! ### The state after FSM.SETUP -/

/-- Where `BlockInv` says which lines may be registered, the other lines have no handler (R262). -/
theorem BlockInv.vec_eq_vNone {s : State} (hs : BlockInv s) {l : Fin 8} (h0 : l ≠ 0) (h6 : l ≠ 6) :
    s.ic.vec[l.val] = .vNone := by
  cases hv : s.ic.vec[l.val] with
  | vNone => rfl
  | vKey => exact absurd (hs.vec_key l hv) h6
  | vTmr => exact absurd (hs.vec_tmr l hv) h0

/-- With the two registrations of `FSM.SETUP` the whole vector table is known (R139, R190). -/
theorem BlockInv.vec_register {s : State} (hs : BlockInv s) :
    (s.ic.vec.set 0 .vTmr).set 6 .vKey = #v[.vTmr, .vNone, .vNone, .vNone, .vNone, .vNone, .vKey, .vNone] := by
  ext i hi
  have hnone := hs.vec_eq_vNone (l := ⟨i, hi⟩)
  interval_cases i <;> simp_all

/-- `FSM.SETUP` leaves the foreground at rest with the shared state zero, so a clause about a micro-step or a playback asks
nothing of it; the rest are the controller's registers and timer 0 (R139, R190). -/
theorem gameInv_setup {s : State} (hs : BlockInv s) (hf : s.fpc = .idle) (hh : s.hpc = .idle)
    (hrun : s.tm[0].run = false) (hpnd : lineBit s.ic.pnd 0 = false) (hport : ∀ w, s.port = some w → quietWord w = true) :
    GameInv (setupInterrupts (setupState s)) := by
  have hmsk : setLineBit (setLineBit 0xFF#8 0 false) 6 true = 0xFE#8 := by decide
  have hmod : setLineBit (setLineBit 0x00#8 0 false) 6 false = 0x00#8 := by decide
  have hbase := blockInv_setup hs hf
  rw [setupInterrupts_eq, setupState_eq] at hbase ⊢
  exact {
    base := hbase
    cap := rfl
    enables := ⟨rfl, rfl, rfl, hmod⟩
    vec := hs.vec_register
    reload := by simp
    port := hport
    mask := .inl hmsk
    armed := by simp [hf]
    disarmed := fun _ => rfl
    key_ctx := by simp [hh, contextOf]
    key_before := fun _ => rfl
    key_after := fun _ => rfl
    tmr_ctx := by simp [hh, contextOf]
    tmr_body := fun _ => rfl
    run := by simp [hf, hrun, State.playing]
    tick := by simp [hpnd]
    idle_played := fun _ => rfl
    wmark := by simp [hf]
    cleared := fun _ => rfl
    dest := by simp [hf]
    captured := by simp
    progress := by simp [hf, State.playing]
    complete := by simp [hf] }

theorem gameInv_withRes {s : State} (hs : GameInv s) (r : ResultWord) : GameInv (s.withRes r) :=
  { hs with base := blockInv_withRes hs.base r }

/-- Settles O58: the result word apart, the state after is the one `FSM.SETUP` configures. -/
theorem setupEstablishesTheGameInvariant : Obligations.SetupEstablishesTheGameInvariant :=
  fun _ hs hf hh hrun hpnd hport => ⟨_, rfl, gameInv_withRes (gameInv_setup hs hf hh hrun hpnd hport) 0⟩

/-! ### The operands that are a Boolean or a mode -/

theorem eq_zero_or_one_of_toNat_le {w : Nat} {v : BitVec w} (h : v.toNat ≤ 1) : v = 0#w ∨ v = 1#w := by
  have hv : v = BitVec.ofNat w v.toNat := by simp
  rcases Nat.le_one_iff_eq_zero_or_eq_one.mp h with h | h
  · exact .inl (hv.trans (congrArg _ h))
  · exact .inr (hv.trans (congrArg _ h))

/-- In range, a Boolean operand is its lowest value or 1, in a field of any width (R93). -/
theorem boolOf_of_le {w : Nat} {v : BitVec (w + 1)} (h : v.toNat ≤ 1) : boolOf v.toNat = some (v == 1#(w + 1)) := by
  rcases eq_zero_or_one_of_toNat_le h with rfl | rfl <;> simp [boolOf]

/-- In range, a mode operand is the mode whose bit it is (R93). -/
theorem lineModeOf_of_le {b : Half} (h : b.toNat ≤ 1) : ∃ m, lineModeOf b.toNat = some m ∧ lineModeBit m = (b == 1#16) := by
  rcases eq_zero_or_one_of_toNat_le h with rfl | rfl
  · exact ⟨.irq, rfl, rfl⟩
  · exact ⟨.fiq, rfl, rfl⟩

/-! ### The commands -/

theorem exec_icReset (s : State) : exec .icReset s = .next ((icReset s).withRes 0) := rfl

theorem exec_icCfgGlobal_of_le {a : Byte} {b : Half} (s : State) (ha : a.toNat ≤ 1) (hb : b.toNat ≤ 1) :
    exec (.icCfgGlobal a b) s = .next ((icCfgGlobal (a == 1#8) (b == 1#16) s).withRes 0) := by
  simp only [exec, execIcCfgGlobal, boolOf_of_le ha, boolOf_of_le hb, done]

theorem exec_icCfgGlobal_of_not_le {a : Byte} {b : Half} (s : State) (h : ¬ (a.toNat ≤ 1 ∧ b.toNat ≤ 1)) :
    exec (.icCfgGlobal a b) s = .next (s.withRes (errorWord .invalid)) := by
  simp only [exec, execIcCfgGlobal]
  by_cases ha : a.toNat ≤ 1
  · rw [boolOf_none (n := b.toNat) (by omega)]
    cases boolOf a.toNat <;> rfl
  · rw [boolOf_none (n := a.toNat) (by omega)]
    rfl

theorem exec_icCfgFiq_of_le {a : Byte} (s : State) (h : a.toNat ≤ 1) :
    exec (.icCfgFiq a) s = .next ((icCfgFiq (a == 1#8) s).withRes 0) := by
  simp only [exec, execIcCfgFiq, boolOf_of_le h, done]

theorem exec_icCfgFiq_of_not_le {a : Byte} (s : State) (h : ¬ a.toNat ≤ 1) :
    exec (.icCfgFiq a) s = .next (s.withRes (errorWord .invalid)) := by
  simp only [exec, execIcCfgFiq, boolOf_none (n := a.toNat) (by omega), failed]

/-- Settles O18, by whether the Boolean operands are in range. -/
theorem icResetAndGlobalEnablesAreWritten : Obligations.IcResetAndGlobalEnablesAreWritten := by
  intro s a b
  refine ⟨exec_icReset s, ?_, ?_⟩
  · split_ifs with h
    · exact exec_icCfgGlobal_of_le s h.1 h.2
    · exact exec_icCfgGlobal_of_not_le s h
  · split_ifs with h
    · exact exec_icCfgFiq_of_le s h
    · exact exec_icCfgFiq_of_not_le s h

section Line

variable {a : Byte} {l : Fin 8} (ha : a.toNat = l.val) (s : State)
include ha

theorem exec_icSetMode_of_line {b : Half} (hb : b.toNat ≤ 1) : exec (.icSetMode a b) s =
    .next { s with ic := { s.ic with mod := setLineBit s.ic.mod l (b == 1#16) }, res := some 0#32 } := by
  obtain ⟨m, hm, hbit⟩ := lineModeOf_of_le hb
  simp only [exec, execIcSetMode, lineOf_eq ha, hm, ← hbit]
  rfl

theorem exec_icEnable_of_line : exec (.icEnable a) s = .next ((icEnable l s).withRes 0) := by
  simp only [exec, execIcEnable, lineOf_eq ha, done]

theorem exec_icDisable_of_line : exec (.icDisable a) s = .next ((icDisable l s).withRes 0) := by
  simp only [exec, execIcDisable, lineOf_eq ha, done]

theorem exec_icAck_of_line : exec (.icAck a) s = .next ((clearPending l s).withRes 0) := by
  simp only [exec, execIcAck, lineOf_eq ha, done]

end Line

theorem exec_icSetMode_of_bad_mode (a : Byte) {b : Half} (s : State) (hb : 2 ≤ b.toNat) :
    exec (.icSetMode a b) s = .next (s.withRes (errorWord .invalid)) := by
  simp only [exec, execIcSetMode, lineModeOf_none hb]
  cases lineOf a <;> rfl

/-- A line above 7 is refused by all four line commands (R137). -/
theorem exec_lineCommands_of_bad_line {a : Byte} (b : Half) (s : State) (ha : 8 ≤ a.toNat) :
    ∀ i ∈ [Instr.icSetMode a b, .icEnable a, .icDisable a, .icAck a],
      exec i s = .next (s.withRes (errorWord .invalid)) := by
  simp [exec, execIcSetMode, execIcEnable, execIcDisable, execIcAck, lineOf_none ha, failed]

/-- Settles O19: each command is the write of its line's bit, and `lineBit_setLineBit` says what that makes of every bit. -/
theorem icLineCommandsWriteOneBit : Obligations.IcLineCommandsWriteOneBit := by
  intro s a b
  refine ⟨fun l ha => ⟨fun hb => ?_, ?_, ?_, ?_⟩, exec_icSetMode_of_bad_mode a s, fun ha => ?_⟩
  · exact ⟨_, fun k => lineBit_setLineBit .., exec_icSetMode_of_line ha s hb⟩
  · exact ⟨_, fun k => lineBit_setLineBit .., exec_icEnable_of_line ha s⟩
  · exact ⟨_, fun k => lineBit_setLineBit .., exec_icDisable_of_line ha s⟩
  · exact ⟨_, fun k => lineBit_setLineBit .., exec_icAck_of_line ha s⟩
  · have hbad := exec_lineCommands_of_bad_line b s ha
    exact ⟨hbad _ (by simp), hbad _ (by simp), hbad _ (by simp), hbad _ (by simp)⟩

end Sys2Proof.Machine
end

section
/-! PROOFS. The timer's commands (42_timer.md R151 to R161): what each writes (O21 to O25), and `TM.CFG_PERIOD` as five of the
others (O26). -/

namespace Sys2Proof.Machine

open Sys2Proof

/-! ### The operands -/

theorem prescaleOf_of_le {b : Half} (h : b.toNat ≤ 255) : prescaleOf b = some (b.setWidth 8) := if_pos h

theorem prescaleOf_none {b : Half} (h : 256 ≤ b.toNat) : prescaleOf b = none := if_neg (show ¬ b.toNat ≤ 255 by omega)

/-- A ratio code names a divider only where its timer admits the ratio (R152). -/
theorem dividerOf_of_ratio {t : Fin 6} {b : Half} {r : Ratio} (h : b.toNat = (ratioCode r).toNat) :
    dividerOf t b = if ratioOk t r then some r else none := by
  simp only [dividerOf, h, ratioOf_ratioCode, Option.filter]

theorem dividerOf_none (t : Fin 6) {b : Half} (h : 7 ≤ b.toNat) : dividerOf t b = none := by
  simp only [dividerOf, ratioOf_none h, Option.filter_none]

/-- The table of R153, by the ratio's code. -/
theorem ratioOk_iff (t : Fin 6) (r : Ratio) : ratioOk t r = true ↔
    (ratioCode r).toNat ≤ 3 ∨ ((ratioCode r).toNat = 4 ∧ t.val ≤ 3) ∨ ((ratioCode r).toNat = 5 ∧ t.val = 4) ∨
      ((ratioCode r).toNat = 6 ∧ t.val = 5) := by
  cases r <;> simp [ratioOk, ratioCode]

theorem timerModeOf_of_le {b : Half} (h : b.toNat ≤ 1) :
    timerModeOf b.toNat = some (if b = 1#16 then .reload else .oneShot) := by
  rcases eq_zero_or_one_of_toNat_le h with rfl | rfl <;> rfl

/-- In range, a period operand names a row of the table at its default (R161; log 7). -/
theorem periodOf_of_le {b : Half} (h : b.toNat ≤ 3) : ∃ p, periodOf b.toNat = some p ∧ periodRow p =
    { div := if b = 0#16 then .div8 else if b = 1#16 then .div4 else .div2
      count := if b = 3#16 then 31250#16 else 62500#16
      cmp := 1#16 } := by
  have hb : b = 0#16 ∨ b = 1#16 ∨ b = 2#16 ∨ b = 3#16 := by bv_omega
  rcases hb with rfl | rfl | rfl | rfl
  · exact ⟨.twoSecs, rfl, rfl⟩
  · exact ⟨.oneSec, rfl, rfl⟩
  · exact ⟨.halfSec, rfl, rfl⟩
  · exact ⟨.quarterSec, rfl, rfl⟩

/-! ### The commands on a valid group or timer -/

theorem exec_tmSetPrescaler_of_group {a : Byte} {g : Fin 3} (ha : a.toNat = g.val) {b : Half} (hb : b.toNat ≤ 255)
    (s : State) : exec (.tmSetPrescaler a b) s = .next ((tmSetPrescaler g (b.setWidth 8) s).withRes 0) := by
  simp only [exec, execTmSetPrescaler, groupOf_eq ha, prescaleOf_of_le hb, done]

section Timer

variable {a : Byte} {t : Fin 6} (ha : a.toNat = t.val) (s : State)
include ha

theorem exec_tmSetDivider_of_timer {b : Half} {r : Ratio} (hb : b.toNat = (ratioCode r).toNat) :
    exec (.tmSetDivider a b) s =
      .next (if ratioOk t r then (tmSetDivider t r s).withRes 0 else s.withRes (errorWord .invalid)) := by
  simp only [exec, execTmSetDivider, timerOf_eq ha, dividerOf_of_ratio hb]
  cases ratioOk t r <;> rfl

theorem exec_tmSetCount_of_timer (b c : Half) :
    exec (.tmSetCount a b c) s = .next ((tmSetCount t b c s).withRes 0) := by
  simp only [exec, execTmSetCount, timerOf_eq ha, done]

theorem exec_tmSetMode_of_timer {b : Half} {m : TimerMode} (hb : timerModeOf b.toNat = some m) :
    exec (.tmSetMode a b) s = .next ((tmSetMode t m s).withRes 0) := by
  simp only [exec, execTmSetMode, timerOf_eq ha, hb, done]

theorem exec_tmCommit_of_timer : exec (.tmCommit a) s = .next ((tmCommit t s).withRes 0) := by
  simp only [exec, execTmCommit, timerOf_eq ha, done]

theorem exec_tmStart_of_timer : exec (.tmStart a) s = .next ((tmStart t s).withRes 0) := by
  simp only [exec, execTmStart, timerOf_eq ha, done]

theorem exec_tmStop_of_timer : exec (.tmStop a) s = .next ((tmStop t s).withRes 0) := by
  simp only [exec, execTmStop, timerOf_eq ha, done]

theorem exec_tmIsRunning_of_timer :
    exec (.tmIsRunning a) s = .next (s.withRes (if s.tm[t.val].run then 1 else 0)) := by
  simp only [exec, execTmIsRunning, timerOf_eq ha, done]

theorem exec_tmCfgPeriod_of_timer {b c : Half} {p : Period} {m : TimerMode} (hb : periodOf b.toNat = some p)
    (hc : timerModeOf c.toNat = some m) :
    exec (.tmCfgPeriod a b c) s = .next ((tmCfgPeriod t p m s).withRes 0) := by
  simp only [exec, execTmCfgPeriod, timerOf_eq ha, hb, hc, done]

end Timer

/-! ### The refusals -/

theorem exec_tmSetPrescaler_of_invalid {a : Byte} {b : Half} (h : 3 ≤ a.toNat ∨ 256 ≤ b.toNat) (s : State) :
    exec (.tmSetPrescaler a b) s = .next (s.withRes (errorWord .invalid)) := by
  simp only [exec, execTmSetPrescaler]
  rcases h with h | h
  · rw [groupOf_none h]
    rfl
  · rw [prescaleOf_none h]
    cases groupOf a <;> rfl

/-- A timer above 5 is refused by every command that names one (R166). -/
theorem exec_of_bad_timer {a : Byte} (ha : 6 ≤ a.toNat) (b c : Half) (s : State) :
    ∀ i ∈ [Instr.tmSetDivider a b, .tmSetCount a b c, .tmSetMode a b, .tmCommit a, .tmStart a, .tmStop a, .tmIsRunning a,
      .tmCfgPeriod a b c], exec i s = .next (s.withRes (errorWord .invalid)) := by
  simp [exec, execTmSetDivider, execTmSetCount, execTmSetMode, execTmCommit, execTmStart, execTmStop, execTmIsRunning,
    execTmCfgPeriod, timerOf_none ha, failed]

theorem exec_tmSetDivider_of_bad_ratio (a : Byte) {b : Half} (hb : 7 ≤ b.toNat) (s : State) :
    exec (.tmSetDivider a b) s = .next (s.withRes (errorWord .invalid)) := by
  simp only [exec, execTmSetDivider, dividerOf_none _ hb]
  cases timerOf a <;> rfl

theorem exec_tmSetMode_of_bad_mode (a : Byte) {b : Half} (hb : 2 ≤ b.toNat) (s : State) :
    exec (.tmSetMode a b) s = .next (s.withRes (errorWord .invalid)) := by
  simp only [exec, execTmSetMode, timerModeOf_none hb]
  cases timerOf a <;> rfl

theorem exec_tmCfgPeriod_of_bad_period (a : Byte) {b : Half} (c : Half) (hb : 4 ≤ b.toNat) (s : State) :
    exec (.tmCfgPeriod a b c) s = .next (s.withRes (errorWord .invalid)) := by
  simp only [exec, execTmCfgPeriod, periodOf_none hb]
  cases timerOf a <;> rfl

theorem exec_tmCfgPeriod_of_bad_mode (a : Byte) (b : Half) {c : Half} (hc : 2 ≤ c.toNat) (s : State) :
    exec (.tmCfgPeriod a b c) s = .next (s.withRes (errorWord .invalid)) := by
  simp only [exec, execTmCfgPeriod, timerModeOf_none hc]
  cases timerOf a <;> cases periodOf b.toNat <;> rfl

/-! ### The statements -/

/-- Settles O21, by whether the group and the value are in range. -/
theorem tmSetPrescalerWritesItsGroup : Obligations.TmSetPrescalerWritesItsGroup :=
  fun s _ _ => ⟨fun _ ha hb => exec_tmSetPrescaler_of_group ha hb s, fun h => exec_tmSetPrescaler_of_invalid h s⟩

/-- Settles O22: where the operands name a timer and a ratio, `ratioOk_iff` is the table of R153. -/
theorem tmSetDividerFollowsTheRatioTable : Obligations.TmSetDividerFollowsTheRatioTable := by
  intro s a b
  refine ⟨fun t r ha hb => ?_, ?_⟩
  · rw [exec_tmSetDivider_of_timer ha s hb, hb]
    simp only [ratioOk_iff]
    rfl
  · rintro (ha | hb)
    · exact exec_of_bad_timer ha b 0 s _ (by simp)
    · exact exec_tmSetDivider_of_bad_ratio a hb s

/-- Settles O23, by whether the timer and the mode are in range. -/
theorem tmSetCountAndModeWriteOneTimer : Obligations.TmSetCountAndModeWriteOneTimer := by
  intro s a b c
  refine ⟨fun t ha => ⟨exec_tmSetCount_of_timer ha s b c, fun hb => ?_⟩, fun hb => exec_tmSetMode_of_bad_mode a hb s,
    fun ha => ?_⟩
  · exact exec_tmSetMode_of_timer ha s (timerModeOf_of_le hb)
  · have hbad := exec_of_bad_timer ha b c s
    exact ⟨hbad _ (by simp), hbad _ (by simp)⟩

/-- Settles O24: on a valid timer each command is its operation; the others are refused alike. -/
theorem tmCommitStartStopAndQueryOneTimer : Obligations.TmCommitStartStopAndQueryOneTimer := by
  intro s a
  refine ⟨fun t ha => ⟨?_, ?_, ?_, ?_⟩, fun ha => ?_⟩
  · exact exec_tmCommit_of_timer ha s
  · exact exec_tmStart_of_timer ha s
  · exact exec_tmStop_of_timer ha s
  · exact exec_tmIsRunning_of_timer ha s
  · have hbad := exec_of_bad_timer ha 0 0 s
    exact ⟨hbad _ (by simp), hbad _ (by simp), hbad _ (by simp), hbad _ (by simp)⟩

/-- Settles O25: the closed form of the five operations, at the row that the period code names. -/
theorem tmCfgPeriodWritesTheTableRow : Obligations.TmCfgPeriodWritesTheTableRow := by
  intro s a b c
  refine ⟨fun t ha hb hc => ?_, ?_⟩
  · obtain ⟨p, hp, hrow⟩ := periodOf_of_le hb
    rw [exec_tmCfgPeriod_of_timer ha s hp (timerModeOf_of_le hc), tmCfgPeriod_eq, hrow]
    rfl
  · rintro (ha | hb | hc)
    · exact exec_of_bad_timer ha b c s _ (by simp)
    · exact exec_tmCfgPeriod_of_bad_period a c hb s
    · exact exec_tmCfgPeriod_of_bad_mode a b hc s

/-! ### The five primitive commands in a row -/

theorem State.withRes_withRes (s : State) (v w : ResultWord) : (s.withRes v).withRes w = s.withRes w := rfl

theorem tmSetDivider_withRes (t : Fin 6) (r : Ratio) (s : State) (v : ResultWord) :
    tmSetDivider t r (s.withRes v) = (tmSetDivider t r s).withRes v := rfl

theorem tmSetCount_withRes (t : Fin 6) (b c : Half) (s : State) (v : ResultWord) :
    tmSetCount t b c (s.withRes v) = (tmSetCount t b c s).withRes v := rfl

theorem tmSetMode_withRes (t : Fin 6) (m : TimerMode) (s : State) (v : ResultWord) :
    tmSetMode t m (s.withRes v) = (tmSetMode t m s).withRes v := rfl

theorem tmCommit_withRes (t : Fin 6) (s : State) (v : ResultWord) :
    tmCommit t (s.withRes v) = (tmCommit t s).withRes v := rfl

theorem runCommands_cons {i : Instr} {s t : State} (h : exec i s = .next t) (is : List Instr) :
    runCommands (i :: is) s = runCommands is t := by
  simp only [runCommands, h]

/-- Settles O26: the row's divider is one that every timer admits, so all five commands complete, and their operations are
those of `TM.CFG_PERIOD`; each answers 0. -/
theorem tmCfgPeriodEqualsFiveCommands : Obligations.TmCfgPeriodEqualsFiveCommands := by
  intro s t b c p hp hc
  have ht : (BitVec.ofNat 8 t.val).toNat = t.val := by simp; omega
  have hg : (BitVec.ofNat 8 (t.val / 2)).toNat = (Config.group t).val := by simp [Config.group]; omega
  have hr : ((ratioCode (Config.periodTable p).div).setWidth 16 : Half).toNat =
      (ratioCode (Config.periodTable p).div).toNat := by simp; omega
  have hok : ratioOk t (Config.periodTable p).div = true := ratioOk_periodRow t p
  have hm := timerModeOf_of_le hc
  rw [runCommands_cons (exec_tmCfgPeriod_of_timer ht s hp hm),
    runCommands_cons (exec_tmSetPrescaler_of_group hg (by decide) s),
    runCommands_cons (exec_tmSetDivider_of_timer ht _ hr), if_pos hok,
    runCommands_cons (exec_tmSetCount_of_timer ht _ _ _), runCommands_cons (exec_tmSetMode_of_timer ht _ hm),
    runCommands_cons (exec_tmCommit_of_timer ht _)]
  simp only [tmSetDivider_withRes, tmSetCount_withRes, tmSetMode_withRes, tmCommit_withRes, State.withRes_withRes]
  rfl

end Sys2Proof.Machine
end

section
/-! PROOFS. The count pulse (42_timer.md R162, R163): one pulse (O27), and the pulses up to an expiry (O28). -/

namespace Sys2Proof.Machine

open Sys2Proof

/-! ### One pulse -/

theorem pulse_of_stopped {t : Fin 6} {s : State} (h : s.tm[t.val].run = false) : pulse t s = s := by
  unfold pulse
  simp [h]

theorem pulse_of_two_le {t : Fin 6} {s : State} (hr : s.tm[t.val].run = true) (hc : 2 ≤ s.tm[t.val].cnt.toNat) :
    pulse t s = s.withTimer t { s.tm[t.val] with cnt := s.tm[t.val].cnt - 1#16 } := by
  rcases pulse_cases t s with ⟨h, -⟩ | ⟨-, -, e⟩ | ⟨-, h, -⟩
  · simp [hr] at h
  · exact e
  · omega

theorem pulse_of_le_one {t : Fin 6} {s : State} (hr : s.tm[t.val].run = true) (hc : s.tm[t.val].cnt.toNat ≤ 1) :
    pulse t s = expire t s := by
  rcases pulse_cases t s with ⟨h, -⟩ | ⟨-, h, -⟩ | ⟨-, -, e⟩
  · simp [hr] at h
  · omega
  · exact e

/-- Expiry as one record update: the line's pending bit and the timer (R163). -/
theorem expire_eq (t : Fin 6) (s : State) : expire t s = { s with
    ic := { s.ic with pnd := setLineBit s.ic.pnd (Config.lineTmr t) true }
    tm := s.tm.set t.val
      (if s.tm[t.val].mode = .reload then { s.tm[t.val] with cnt := s.tm[t.val].rld }
       else { s.tm[t.val] with cnt := 0#16, run := false }) } := by
  unfold expire
  cases s.tm[t.val].mode <;> rfl

theorem expire_timer (t : Fin 6) (s : State) : (expire t s).tm[t.val] =
    if s.tm[t.val].mode = .reload then { s.tm[t.val] with cnt := s.tm[t.val].rld }
    else { s.tm[t.val] with cnt := 0#16, run := false } := by
  rw [expire_eq]
  exact Vector.getElem_set_self _

/-- A timer's line is the one with its number (R255). -/
theorem lineBit_setLineBit_lineTmr (v : Byte) (t : Fin 6) (k : Fin 8) (b : Bool) :
    lineBit (setLineBit v (Config.lineTmr t) b) k = if k.val = t.val then b else lineBit v k := by
  simp [Config.lineTmr, Fin.ext_iff]

/-- Settles O27, by the three cases of a pulse. -/
theorem pulseCountsDownAndExpires : Obligations.PulseCountsDownAndExpires := by
  intro s t he x
  have hstep : step s = .next (pulse t s.consumeEvent) := by
    unfold step
    rw [he]
    rfl
  have hx : s.consumeEvent.tm[t.val] = x := by simp [x]
  rw [hstep]
  refine ⟨fun hr => ?_, fun hr hc => ?_, fun hr hc => ⟨_, (lineBit_setLineBit_lineTmr s.ic.pnd t · true), ?_⟩⟩
  · rw [pulse_of_stopped (by rw [hx, hr])]
  · rw [pulse_of_two_le (by rw [hx, hr]) (by rwa [hx]), hx, State.withTimer, State.consumeEvent_tm]
  · rw [pulse_of_le_one (by rw [hx, hr]) (by rwa [hx]), expire_eq, hx, State.consumeEvent_tm, State.consumeEvent_ic]

/-! ### Several pulses -/

/-- A fixed pulse of a timer that runs with more than 1 left counts down. -/
theorem step_pulse_of_two_le {s : State} {t : Fin 6} {es : List Event} (hs : s.sched = .pulse t :: es)
    (hr : s.tm[t.val].run = true) (hc : 2 ≤ s.tm[t.val].cnt.toNat) :
    ∃ u, step s = .next u ∧ u.sched = es ∧ u.ic = s.ic ∧
      u.tm[t.val] = { s.tm[t.val] with cnt := s.tm[t.val].cnt - 1#16 } := by
  have hpulse := pulse_of_two_le (s := { s with sched := es, res := none }) hr hc
  exact ⟨_, (step_of_sched hs).trans (congrArg Host.Outcome.next hpulse), rfl, rfl, Vector.getElem_set_self _⟩

/-- A fixed pulse of a timer that runs with at most 1 left expires. -/
theorem step_pulse_of_le_one {s : State} {t : Fin 6} {es : List Event} (hs : s.sched = .pulse t :: es)
    (hr : s.tm[t.val].run = true) (hc : s.tm[t.val].cnt.toNat ≤ 1) :
    step s = .next (expire t { s with sched := es, res := none }) := by
  rw [step_of_sched hs]
  exact congrArg Host.Outcome.next (pulse_of_le_one (s := { s with sched := es, res := none }) hr hc)

/-- Pulses that are fewer than the count only count down. -/
theorem runSteps_pulses (t : Fin 6) (es : List Event) (m k : Nat) : ∀ s : State, s.tm[t.val].run = true →
    k < s.tm[t.val].cnt.toNat → s.sched = List.replicate k (.pulse t) ++ es →
    ∃ u, runSteps (k + m) s = runSteps m u ∧ u.sched = es ∧ u.ic = s.ic ∧
      u.tm[t.val] = { s.tm[t.val] with cnt := s.tm[t.val].cnt - BitVec.ofNat 16 k } := by
  induction k with
  | zero =>
    intro s _ _ hs
    exact ⟨s, by rw [Nat.zero_add], hs, rfl, by simp⟩
  | succ k ih =>
    intro s hr hk hs
    rw [List.replicate_succ, List.cons_append] at hs
    obtain ⟨v, hstep, hsched, hic, htm⟩ := step_pulse_of_two_le hs hr (by omega)
    obtain ⟨u, hrun, hsched', hic', htm'⟩ := ih v (by rw [htm, hr]) (by rw [htm]; bv_omega) hsched
    refine ⟨u, ?_, hsched', hic'.trans hic, ?_⟩
    · rw [Nat.add_right_comm, runSteps_succ _ hstep, hrun]
    · have hcnt : s.tm[t.val].cnt - 1#16 - BitVec.ofNat 16 k = s.tm[t.val].cnt - BitVec.ofNat 16 (k + 1) := by bv_omega
      rw [htm', htm, ← hcnt]

/-- Settles O28: all pulses but the last count down, to 1, and the last expires. -/
theorem timerExpiresAtItsNthPulse : Obligations.TimerExpiresAtItsNthPulse := by
  intro s t es hr hpos n s0
  have hlt : n < 2 ^ 16 := s.tm[t.val].cnt.isLt
  have hleft (k : Nat) (hk : k < n) : (s.tm[t.val].cnt - BitVec.ofNat 16 k).toNat = n - k := by
    rw [BitVec.toNat_sub_of_le] <;> simp [BitVec.le_def] <;> omega
  constructor
  · intro k hk
    have hs : s0.sched = List.replicate k (.pulse t) ++ (List.replicate (n - k) (.pulse t) ++ es) := by
      rw [← List.append_assoc, List.replicate_append_replicate, Nat.add_sub_cancel' hk.le]
    obtain ⟨u, hrun, -, hic, htm⟩ := runSteps_pulses t _ 0 k s0 hr hk hs
    refine ⟨u, hrun, congrArg IntCtl.pnd hic, ?_⟩
    rw [htm]
    exact hleft k hk
  · have hlast : n - 1 < n := Nat.sub_lt hpos one_pos
    have hs : s0.sched = List.replicate (n - 1) (.pulse t) ++ .pulse t :: es := by
      rw [List.append_cons, ← List.replicate_succ', Nat.sub_add_cancel hpos]
    obtain ⟨u, hrun, hsched, -, htm⟩ := runSteps_pulses t _ 1 (n - 1) s0 hr hlast hs
    have hone : u.tm[t.val].cnt.toNat ≤ 1 := by
      rw [htm]
      exact (hleft (n - 1) hlast).trans_le (by omega)
    have hstep := step_pulse_of_le_one hsched (by rw [htm]; exact hr) hone
    rw [Nat.sub_add_cancel hpos, runSteps_succ 0 hstep] at hrun
    refine ⟨_, hrun, fun l hl => ?_, fun hm => ?_, fun hm => ?_⟩
    · exact (lineBit_setLineBit_lineTmr _ t l true).trans (if_pos hl)
    · simp [expire_timer, htm, s0, hm, hr]
    · simp [expire_timer, htm, s0, hm]

end Sys2Proof.Machine
end

section
/-! PROOFS. The compare registers, the prescalers and the dividers (42_timer.md R164, 10_state.md R38): two blocks that differ
only in these make the same moves with the same result words, until one of the registers is read back (O29). -/

namespace Sys2Proof.Machine

open Sys2Proof

/-! ### Blocks that differ only in these registers -/

/-- A timer with its divider and its compare registers erased, as `eraseRates` erases them in every timer. -/
def Timer.eraseRates (x : Timer) : Timer := { x with div := .div2, cmp := 0#16, cmpb := 0#16 }

/-- The block with other prescalers and other timers. -/
@[simps] def State.withRates (s : State) (psc : Vector Byte 3) (tm : Vector Timer 6) : State :=
  { s with psc := psc, tm := tm }

/-- Another block, with other prescalers, and with other dividers and compare registers in its timers. -/
inductive SameButRates (s : State) : State → Prop
  | intro (psc : Vector Byte 3) (tm : Vector Timer 6) (h : tm.map Timer.eraseRates = s.tm.map Timer.eraseRates) :
      SameButRates s (s.withRates psc tm)

theorem SameButRates.refl (s : State) : SameButRates s s := .intro _ _ rfl

/-- A step begins by clearing the result word, the only other register that `eraseRates` erases. -/
theorem sameButRates_consumeEvent {s s' : State} (h : eraseRates s = eraseRates s') :
    SameButRates s.consumeEvent s'.consumeEvent := by
  cases s
  cases s'
  simp only [eraseRates, State.mk.injEq] at h
  obtain ⟨rfl, rfl, rfl, rfl, rfl, rfl, rfl, rfl, rfl, rfl, rfl, rfl, rfl, rfl, -, htm, rfl, rfl, rfl, rfl, rfl, -, rfl,
    rfl⟩ := h
  unfold State.consumeEvent
  dsimp only
  split <;> exact .intro _ _ htm.symm

/-- Items 8 to 12 of `FSM.SETUP` write the controller only (R190). -/
theorem setupInterrupts_withRates (s : State) (psc : Vector Byte 3) (tm : Vector Timer 6) :
    setupInterrupts (s.withRates psc tm) = (setupInterrupts s).withRates psc tm := by
  simp only [setupInterrupts_eq]
  rfl

section SameButRates

variable {s s' : State} (h : SameButRates s s')
include h

theorem SameButRates.eraseRates_eq : eraseRates s = eraseRates s' := by
  obtain ⟨psc, tm, htm⟩ := h
  have hpsc : s.psc.map (fun _ => 0#8) = psc.map fun _ => 0#8 := by ext; simp
  exact congrArg₂ (fun psc tm => { s.withRates psc tm with res := none }) hpsc htm.symm

theorem SameButRates.timer_eq (k : Fin 6) : s'.tm[k.val].eraseRates = s.tm[k.val].eraseRates := by
  obtain ⟨psc, tm, htm⟩ := h
  simpa using congrArg (·[k.val]) htm

/-- An update that carries other prescalers and timers through. -/
theorem SameButRates.of_commutes {f : State → State}
    (hf : ∀ psc tm, f (s.withRates psc tm) = (f s).withRates psc tm) : SameButRates (f s) (f s') := by
  have htm : (f s).tm = s.tm := (congrArg State.tm (hf s.psc s.tm) :)
  obtain ⟨psc, tm, h⟩ := h
  rw [hf]
  exact .intro psc tm (by rw [htm, h])

theorem SameButRates.withRes (r : ResultWord) : SameButRates (s.withRes r) (s'.withRes r) :=
  h.of_commutes (f := (·.withRes r)) fun _ _ => rfl

/-! ### The timer operations -/

/-- An update `f` of one timer that reads the erased registers only to write them: `hf` says so, by a `g` that makes of the
erased timer the erased result. -/
theorem SameButRates.updateTimer (k : Fin 6) (f g : Timer → Timer) (hf : ∀ x, (f x).eraseRates = g x.eraseRates) :
    SameButRates (s.withTimer k (f s.tm[k.val])) (s'.withTimer k (f s'.tm[k.val])) := by
  have hk : (f s'.tm[k.val]).eraseRates = (f s.tm[k.val]).eraseRates := by rw [hf, hf, h.timer_eq k]
  obtain ⟨psc, tm, htm⟩ := h
  refine .intro psc (tm.set k.val (f tm[k.val])) ?_
  rw [State.withTimer_tm, Vector.map_set, Vector.map_set, htm]
  exact congrArg (fun x => (s.tm.map Timer.eraseRates).set k.val x) hk

theorem SameButRates.tmSetPrescaler (g : Fin 3) (v : Byte) :
    SameButRates (tmSetPrescaler g v s) (tmSetPrescaler g v s') := by
  obtain ⟨psc, tm, htm⟩ := h
  exact .intro (psc.set g.val v) tm htm

theorem SameButRates.tmSetDivider (k : Fin 6) (r : Ratio) : SameButRates (tmSetDivider k r s) (tmSetDivider k r s') :=
  h.updateTimer k ({ · with div := r }) id fun _ => rfl

theorem SameButRates.tmSetCount (k : Fin 6) (b c : Half) : SameButRates (tmSetCount k b c s) (tmSetCount k b c s') :=
  h.updateTimer k ({ · with cntb := b, cmpb := c }) ({ · with cntb := b }) fun _ => rfl

theorem SameButRates.tmSetMode (k : Fin 6) (m : TimerMode) : SameButRates (tmSetMode k m s) (tmSetMode k m s') :=
  h.updateTimer k ({ · with mode := m }) ({ · with mode := m }) fun _ => rfl

theorem SameButRates.tmCommit (k : Fin 6) : SameButRates (tmCommit k s) (tmCommit k s') :=
  h.updateTimer k (fun x => { x with rld := x.cntb, cmp := x.cmpb, cnt := x.cntb })
    (fun x => { x with rld := x.cntb, cnt := x.cntb }) fun _ => rfl

theorem SameButRates.tmStart (k : Fin 6) : SameButRates (tmStart k s) (tmStart k s') :=
  h.updateTimer k ({ · with run := true }) ({ · with run := true }) fun _ => rfl

theorem SameButRates.tmStop (k : Fin 6) : SameButRates (tmStop k s) (tmStop k s') :=
  h.updateTimer k ({ · with run := false }) ({ · with run := false }) fun _ => rfl

theorem SameButRates.tmCfgPeriod (k : Fin 6) (p : Period) (m : TimerMode) :
    SameButRates (tmCfgPeriod k p m s) (tmCfgPeriod k p m s') :=
  ((((h.tmSetPrescaler ..).tmSetDivider ..).tmSetCount ..).tmSetMode ..).tmCommit k

/-- Expiry reads the mode and the committed count (R163). -/
theorem SameButRates.expire (k : Fin 6) : SameButRates (expire k s) (expire k s') := by
  have hmode : s'.tm[k.val].mode = s.tm[k.val].mode := (congrArg Timer.mode (h.timer_eq k) :)
  have hpnd := h.of_commutes (f := setPending (Config.lineTmr k)) fun _ _ => rfl
  unfold Machine.expire
  rw [hmode]
  cases s.tm[k.val].mode with
  | reload => exact hpnd.updateTimer k (fun x => { x with cnt := x.rld }) (fun x => { x with cnt := x.rld }) fun _ => rfl
  | oneShot =>
    exact hpnd.updateTimer k ({ · with cnt := 0#16, run := false }) ({ · with cnt := 0#16, run := false }) fun _ => rfl

/-- A count pulse reads the run bit and the live counter besides (R162). -/
theorem SameButRates.pulse (k : Fin 6) : SameButRates (pulse k s) (pulse k s') := by
  have hrun : s'.tm[k.val].run = s.tm[k.val].run := (congrArg Timer.run (h.timer_eq k) :)
  have hcnt : s'.tm[k.val].cnt = s.tm[k.val].cnt := (congrArg Timer.cnt (h.timer_eq k) :)
  have hcount := h.updateTimer k (fun x => { x with cnt := x.cnt - 1#16 }) (fun x => { x with cnt := x.cnt - 1#16 })
    fun _ => rfl
  rcases pulse_cases k s with ⟨hs, e⟩ | ⟨hs, hc, e⟩ | ⟨hs, hc, e⟩
  all_goals rw [e]
  · rw [pulse_of_stopped (hrun.trans hs)]
    exact h
  · rw [pulse_of_two_le (hrun.trans hs) (hcnt ▸ hc)]
    exact hcount
  · rw [pulse_of_le_one (hrun.trans hs) (hcnt ▸ hc)]
    exact h.expire k

/-! ### The sequencers -/

theorem SameButRates.setup : SameButRates (setupInterrupts (setupState s)) (setupInterrupts (setupState s')) := by
  have hzero : SameButRates (zeroShared ((icReset s).withRb (s.rb.init 4#3)))
      (zeroShared ((icReset s').withRb (s'.rb.init 4#3))) :=
    h.of_commutes (f := fun s => zeroShared ((icReset s).withRb (s.rb.init 4#3))) fun _ _ => rfl
  exact (hzero.tmCfgPeriod Config.playbackTimer .oneSec .reload).of_commutes (setupInterrupts_withRates _)

end SameButRates

/-- Of the micro-steps of `FSM.LOOP` only `F_PB_START` reads or writes a timer (R193 to R206). -/
theorem loopStep_withRates {s : State} (hf : s.fpc ≠ .pbStart) (psc : Vector Byte 3) (tm : Vector Timer 6) :
    loopStep (s.withRates psc tm) = (loopStep s).withRates psc tm := by
  unfold loopStep
  rw [State.withRates_fpc]
  cases hfpc : s.fpc with
  | pbStart => exact absurd hfpc hf
  | capWait | capSize | pbWait | goCmp =>
    simp only [stepCapWait, stepCapSize, stepPbWait, stepGoCmp, State.withRates_inputDone, State.withRates_showDone,
      State.withRates_rb, State.withRates_pwd, State.withRates_guess]
    split <;> rfl
  | _ => rfl

theorem SameButRates.loopStep {s s' : State} (h : SameButRates s s') : SameButRates (loopStep s) (loopStep s') := by
  by_cases hf : s.fpc = .pbStart
  · have hf' : s'.fpc = .pbStart := by obtain ⟨psc, tm, -⟩ := h; exact hf
    simp only [Machine.loopStep, hf, hf']
    exact (h.tmStart _).of_commutes (f := (·.withFpc .pbWait)) fun _ _ => rfl
  · exact h.of_commutes (loopStep_withRates hf)

/-- No micro-step of `key_isr` reads or writes a timer (R221 to R225). -/
theorem keyStep_withRates (s : State) (psc : Vector Byte 3) (tm : Vector Timer 6) :
    keyStep (s.withRates psc tm) = (keyStep s).withRates psc tm := by
  unfold keyStep
  rw [State.withRates_hpc]
  cases s.hpc with
  | kScan =>
    simp only [stepKScan, State.withRates_kmRow]
    split_ifs <;> rfl
  | kRelease =>
    simp only [stepKRelease, State.withRates_keyPin]
    split <;> rfl
  | kExit =>
    simp only [stepKExit, State.withRates_termSeen]
    split <;> rfl
  | _ => rfl

/-- Of the micro-steps of `timer_isr` only the end of a playback writes a timer (R228, R229). -/
theorem timerStep_withRates {s : State} (hs : ¬ (s.hpc = .tBody ∧ s.played = s.showWatermark)) (psc : Vector Byte 3)
    (tm : Vector Timer 6) : timerStep (s.withRates psc tm) = (timerStep s).withRates psc tm := by
  unfold timerStep
  rw [State.withRates_hpc]
  cases hh : s.hpc with
  | tBody =>
    have hne : s.played ≠ s.showWatermark := fun e => hs ⟨hh, e⟩
    simp only [stepTBody, playByte_eq, State.withRates_played, State.withRates_showWatermark, State.withRates_rb, if_neg hne]
    cases s.rb.get <;> rfl
  | _ => rfl

theorem SameButRates.timerStep {s s' : State} (h : SameButRates s s') : SameButRates (timerStep s) (timerStep s') := by
  by_cases hs : s.hpc = .tBody ∧ s.played = s.showWatermark
  · have hs' : s'.hpc = .tBody ∧ s'.played = s'.showWatermark := by obtain ⟨psc, tm, -⟩ := h; exact hs
    simp only [Machine.timerStep, stepTBody, hs.1, hs'.1, if_pos hs.2, if_pos hs'.2]
    exact (h.tmStop _).of_commutes (f := fun s => { s with played := 0#8, showDone := true, hpc := .tExit })
      fun _ _ => rfl
  · exact h.of_commutes (timerStep_withRates hs)

/-! ### The instructions and the moves -/

/-- Both answers are next states that differ only in these registers and the result word, and in the result word only where a
register is read back. -/
def AgreeUnless (read : Prop) (o o' : StepResult) : Prop :=
  ∃ t t', o = .next t ∧ o' = .next t' ∧ eraseRates t = eraseRates t' ∧ (¬ read → t.res = t'.res)

theorem SameButRates.agree {read : Prop} {t t' : State} (h : SameButRates t t') :
    AgreeUnless read (.next t) (.next t') :=
  ⟨t, t', rfl, rfl, h.eraseRates_eq, fun _ => by obtain ⟨psc, tm, -⟩ := h; rfl⟩

theorem AgreeUnless.imp {p q : Prop} {o o' : StepResult} (h : AgreeUnless p o o') (hpq : p → q) : AgreeUnless q o o' := by
  obtain ⟨t, t', ho, ho', herase, hres⟩ := h
  exact ⟨t, t', ho, ho', herase, fun hq => hres (hq ∘ hpq)⟩

/-- A read-back writes the result word only (R240). -/
theorem exec_sysRegrd (a : Byte) (s : State) : ∃ r, exec (.sysRegrd a) s = .next (s.withRes r) := by
  simp only [exec, execSysRegrd]
  cases readReg s a.toNat with
  | none => exact ⟨_, rfl⟩
  | some v => exact ⟨_, rfl⟩

section Moves

variable {s s' : State} (h : SameButRates s s')
include h

/-- A command that asks for a timer and performs one of its operations. -/
theorem SameButRates.timerCommand {read : Prop} {op : Fin 6 → State → State}
    (hop : ∀ k, SameButRates (op k s) (op k s')) (a : Byte) :
    AgreeUnless read (match timerOf a with | some k => done 0 (op k s) | none => failed .invalid s)
      (match timerOf a with | some k => done 0 (op k s') | none => failed .invalid s') := by
  cases timerOf a with
  | some k => exact ((hop k).withRes 0).agree
  | none => exact (h.withRes _).agree

/-- The timer's commands and the sequencers by the lemmas above; the other commands reach no timer and no prescaler. -/
theorem SameButRates.exec (i : Instr) : AgreeUnless (∃ a, i = .sysRegrd a) (exec i s) (exec i s') := by
  cases i
  case sysRegrd a =>
    obtain ⟨r, hr⟩ := exec_sysRegrd a s
    obtain ⟨r', hr'⟩ := exec_sysRegrd a s'
    exact ⟨_, _, hr, hr', h.eraseRates_eq, fun hread => absurd ⟨a, rfl⟩ hread⟩
  case fsmSetup => exact (h.setup.withRes 0).agree
  case fsmLoop => exact h.loopStep.agree
  case keyIsr => exact (h.of_commutes (keyStep_withRates s)).agree
  case timerIsr => exact h.timerStep.agree
  case tmSetPrescaler a b =>
    simp only [Machine.exec, execTmSetPrescaler]
    split
    · exact ((h.tmSetPrescaler ..).withRes 0).agree
    · exact (h.withRes _).agree
  case tmSetDivider a b =>
    simp only [Machine.exec, execTmSetDivider]
    split
    · split
      · exact ((h.tmSetDivider ..).withRes 0).agree
      · exact (h.withRes _).agree
    · exact (h.withRes _).agree
  case tmSetCount a b c => exact h.timerCommand (h.tmSetCount · b c) a
  case tmSetMode a b =>
    simp only [Machine.exec, execTmSetMode]
    split
    · exact ((h.tmSetMode ..).withRes 0).agree
    · exact (h.withRes _).agree
  case tmCommit a => exact h.timerCommand h.tmCommit a
  case tmStart a => exact h.timerCommand h.tmStart a
  case tmStop a => exact h.timerCommand h.tmStop a
  case tmIsRunning a =>
    simp only [Machine.exec, execTmIsRunning]
    split
    · rename_i k _
      have hrun : s'.tm[k.val].run = s.tm[k.val].run := (congrArg Timer.run (h.timer_eq k) :)
      rw [hrun]
      exact (h.withRes _).agree
    · exact (h.withRes _).agree
  case tmCfgPeriod a b c =>
    simp only [Machine.exec, execTmCfgPeriod]
    split
    · exact ((h.tmCfgPeriod ..).withRes 0).agree
    · exact (h.withRes _).agree
  all_goals
    obtain ⟨psc, tm, htm⟩ := h
    simp only [Machine.exec, execRbInit, execRbReset, execRbPut, execRbGet, execRbIsEmpty, execRbIsFull, execRbSize,
      execRbCapacity, execIcReset, execIcCfgGlobal, execIcCfgFiq, execIcSetMode, execIcEnable, execIcDisable, execIcAck,
      execKmScan, State.withRates_rb, State.withRates_kmRow]
    (repeat' split) <;> exact SameButRates.agree (.intro psc tm htm)

theorem SameButRates.accept (w : CommandWord) :
    AgreeUnless (∃ a, decodeCommand w = .ok (.sysRegrd a)) (accept w s) (accept w s') := by
  unfold Machine.accept
  cases decodeCommand w with
  | ok i => exact (h.exec i).imp fun ⟨a, ha⟩ => ⟨a, by rw [ha]⟩
  | error e => exact (h.withRes _).agree

theorem SameButRates.foregroundTurn :
    AgreeUnless (s.hpc = .idle ∧ s.fpc = .idle ∧ ∃ w a, s.port = some w ∧ decodeCommand w = .ok (.sysRegrd a))
      (foregroundTurn s) (foregroundTurn s') := by
  have htaken := h.of_commutes (f := ({ · with port := none })) fun _ _ => rfl
  have hloop := h.loopStep
  obtain ⟨psc, tm, htm⟩ := h
  simp only [Machine.foregroundTurn, State.withRates_hpc, State.withRates_fpc, State.withRates_port]
  split_ifs with hh hf
  · cases hp : s.port with
    | none => exact SameButRates.agree (.intro psc tm htm)
    | some w => exact (htaken.accept w).imp fun ⟨a, ha⟩ => ⟨hh, hf, w, a, rfl, ha⟩
  · exact hloop.agree
  · exact SameButRates.agree (.intro psc tm htm)

theorem SameButRates.handlerTurn (read : Prop) : AgreeUnless read (handlerTurn s) (handlerTurn s') := by
  have hkey := h.exec .keyIsr
  have htmr := h.exec .timerIsr
  have hstay := h.agree (read := read)
  obtain ⟨psc, tm, htm⟩ := h
  unfold Machine.handlerTurn
  rw [State.withRates_hpc]
  cases contextOf s.hpc with
  | fg => exact hstay
  | key => exact hkey.imp nofun
  | tmr => exact htmr.imp nofun

theorem SameButRates.deliverTurn (read : Prop) (l : Fin 8) : AgreeUnless read (deliverTurn l s) (deliverTurn l s') := by
  have hkey := h.exec .keyIsr
  have htmr := h.exec .timerIsr
  have hstay := h.agree (read := read)
  obtain ⟨psc, tm, htm⟩ := h
  simp only [Machine.deliverTurn, State.withRates_hpc, State.withRates_ic]
  split
  · cases s.ic.vec[l.val] with
    | vNone => exact hstay
    | vKey => exact hkey.imp nofun
    | vTmr => exact htmr.imp nofun
  · exact hstay

theorem SameButRates.present (w : CommandWord) : SameButRates (present w s) (present w s') := by
  refine h.of_commutes fun psc tm => ?_
  unfold Machine.present
  rw [State.withRates_port]
  cases s.port <;> rfl

theorem SameButRates.inputChange (rows : Vector Nibble 4) (pin : Bool) :
    SameButRates (inputChange rows pin s) (inputChange rows pin s') := by
  refine h.of_commutes fun psc tm => ?_
  simp only [Machine.inputChange, State.withRates_keyPin]
  split <;> rfl

theorem SameButRates.hardwareReset : SameButRates (hardwareReset s) (hardwareReset s') := by
  obtain ⟨psc, tm, htm⟩ := h
  exact .refl _

/-- Of all moves only the acceptance of a `SYS.REGRD` can tell the two blocks apart. -/
theorem SameButRates.turn (e : Event) :
    AgreeUnless
      (e = .foreground ∧ s.hpc = .idle ∧ s.fpc = .idle ∧ ∃ w a, s.port = some w ∧ decodeCommand w = .ok (.sysRegrd a))
      (turn e s) (turn e s') := by
  cases e with
  | present w => exact (h.present w).agree
  | foreground => exact h.foregroundTurn.imp fun hread => ⟨rfl, hread⟩
  | handler => exact h.handlerTurn _
  | deliver l => exact h.deliverTurn _ l
  | pulse k => exact (h.pulse k).agree
  | input rows pin => exact (h.inputChange rows pin).agree
  | rst => exact h.hardwareReset.agree

end Moves

/-- Settles O29: using up the move clears the result words, and then each agent's move keeps the two blocks alike. -/
theorem comparesAndRatesHaveNoEffect : Obligations.ComparesAndRatesHaveNoEffect := by
  intro s s' h
  have hnext : s'.nextEvent = s.nextEvent := (congrArg State.nextEvent h :).symm
  have hturn := (sameButRates_consumeEvent h).turn s.nextEvent
  unfold step
  rw [hnext]
  simpa [AgreeUnless, readsRegister] using hturn

end Sys2Proof.Machine
end

section
/-! PROOFS. The key-matrix decoder (43_key_matrix.md): what `KM.SCAN` answers for the rows it finds. -/

namespace Sys2Proof.Machine

/-! ### Columns -/

/-- R182: an idle row is all high. -/
theorem getLsbD_kmIdle : ∀ c : Fin 4, Config.kmIdle.getLsbD c.val = true := by
  decide

theorem ne_kmIdle_of_low {n : Nibble} {c : Fin 4} (hlow : n.getLsbD c.val = false) : n ≠ Config.kmIdle := by
  rintro rfl
  exact absurd (getLsbD_kmIdle c) (Bool.eq_false_iff.mp hlow)

/-- R182: `column` finds the lowest low bit. -/
theorem column_eq_of_lowest {n : Nibble} {c : Fin 4} (hlow : n.getLsbD c.val = false)
    (hhigh : ∀ d < c, n.getLsbD d.val = true) : column n = c := by
  unfold column
  match c with
  | 0 => exact if_pos hlow
  | 1 =>
    have h0 : n.getLsbD 0 = true := hhigh 0 (by decide)
    have h1 : n.getLsbD 1 = false := hlow
    rw [h0, h1]
    rfl
  | 2 =>
    have h0 : n.getLsbD 0 = true := hhigh 0 (by decide)
    have h1 : n.getLsbD 1 = true := hhigh 1 (by decide)
    have h2 : n.getLsbD 2 = false := hlow
    rw [h0, h1, h2]
    rfl
  | 3 =>
    have h0 : n.getLsbD 0 = true := hhigh 0 (by decide)
    have h1 : n.getLsbD 1 = true := hhigh 1 (by decide)
    have h2 : n.getLsbD 2 = true := hhigh 2 (by decide)
    rw [h0, h1, h2]
    rfl

/-! ### Lines -/

section Scan

variable {rows : Vector Nibble 4} {l : List (Fin 4)} {i : Fin 4}

theorem scanLines_cons_of_idle (h : rows[i.val] = Config.kmIdle) : scanLines rows (i :: l) = scanLines rows l :=
  if_pos h

theorem scanLines_cons_of_active (h : rows[i.val] ≠ Config.kmIdle) :
    scanLines rows (i :: l) = (keyCode i (column rows[i.val])).setWidth 5 :=
  if_neg h

theorem scanLines_of_all_idle (h : ∀ j ∈ l, rows[j.val] = Config.kmIdle) : scanLines rows l = Config.keyNone := by
  induction l with
  | nil => rfl
  | cons j l ih =>
    obtain ⟨hj, hl⟩ := List.forall_mem_cons.mp h
    rw [scanLines_cons_of_idle hj, ih hl]

/-- R181: in increasing order, every line the scan passes before the first active one is lower, hence idle. -/
theorem scanLines_of_first_active (hsorted : l.Pairwise (· < ·)) (hi : i ∈ l)
    (hidle : ∀ j < i, rows[j.val] = Config.kmIdle) (hactive : rows[i.val] ≠ Config.kmIdle) :
    scanLines rows l = (keyCode i (column rows[i.val])).setWidth 5 := by
  induction hsorted with
  | nil => cases hi
  | cons hlt _ ih =>
    cases hi with
    | head => exact scanLines_cons_of_active hactive
    | tail _ hi => rw [scanLines_cons_of_idle (hidle _ (hlt _ hi)), ih hi]

/-! ### One scan -/

/-- R180: the scan order takes in every line. -/
theorem mem_scanOrder : ∀ i : Fin 4, i ∈ ([0, 1, 2, 3] : List (Fin 4)) := by
  decide

theorem kmScan_of_all_idle (h : ∀ j : Fin 4, rows[j.val] = Config.kmIdle) : kmScan rows = Config.keyNone :=
  scanLines_of_all_idle fun j _ => h j

theorem kmScan_of_first_active (hidle : ∀ j < i, rows[j.val] = Config.kmIdle)
    (hactive : rows[i.val] ≠ Config.kmIdle) : kmScan rows = (keyCode i (column rows[i.val])).setWidth 5 :=
  scanLines_of_first_active (by decide) (mem_scanOrder i) hidle hactive

end Scan

/-- `KM.SCAN` writes the result word only. -/
theorem exec_kmScan (s : State) : exec .kmScan s = .next (s.withRes ((kmScan s.kmRow).setWidth 32)) := rfl

/-- Settles O30: the first line that is not idle gives the code of its lowest low column, and four idle lines give
`KEY_NONE`. -/
theorem kmScanReportsTheFirstKey : Obligations.KmScanReportsTheFirstKey := by
  intro s
  refine ⟨fun i c hidle hlow hhigh => ?_, fun hidle => ?_⟩
  · have hscan : kmScan s.kmRow = (Config.kmLut i c).setWidth 5 := by
      rw [kmScan_of_first_active hidle (ne_kmIdle_of_low hlow), column_eq_of_lowest hlow hhigh]
      rfl
    rw [exec_kmScan, hscan, BitVec.setWidth_setWidth (by decide)]
    rfl
  · rw [exec_kmScan, kmScan_of_all_idle hidle]
    rfl

end Sys2Proof.Machine
end

section
/-! PROOFS. The undisturbed game (70_reset_and_hazards.md R305): every quiet move keeps `GameInv` (O59). The foreground rests
at every position but its two waits; what the invariant says there is `AtRest`, so that a micro-step between two such
positions is a record update of `AtRest`. -/

namespace Sys2Proof.Machine

open Sys2Proof

/-! ### A get read backwards -/

theorem RingBuffer.contents_of_get_none {r : RingBuffer} (hr : r.Inv) (h : r.get = none) : r.contents = [] := by
  cases hc : r.contents with
  | nil => rfl
  | cons b l =>
    obtain ⟨q, hq, -⟩ := RingBuffer.get_of_contents_cons hr hc
    rw [h] at hq
    cases hq

theorem RingBuffer.contents_of_get_some {r q : RingBuffer} (hr : r.Inv) {v : Byte} (h : r.get = some (v, q)) :
    r.contents = v :: q.contents := by
  cases hc : r.contents with
  | nil =>
    rw [RingBuffer.get_of_contents_nil hr hc] at h
    cases h
  | cons b l =>
    obtain ⟨q', hq, -, hl⟩ := RingBuffer.get_of_contents_cons hr hc
    rw [h] at hq
    cases hq
    rw [hl]

/-! ### The foreground at rest -/

/-- What the game's invariant asks of each position of the foreground besides the waits (R197, R201 to R203, R209). -/
def restFacts (s : State) : Prop :=
  match s.fpc with
  | .capWait | .pbWait => False
  | .capArm => s.inputDone = false
  | .idle => s.gs = .showPassword ∨ s.gs = .showGuess → s.rb.full = true
  | .pbWmark => s.rb.full = true
  | .pbClear => s.rb.full = true ∧ s.showWatermark = 4#8
  | .pbTarget => s.rb.full = true ∧ s.showWatermark = 4#8 ∧ s.showDone = false
  | .pbStart => s.rb.full = true ∧ s.showWatermark = 4#8 ∧ s.showDone = false ∧ s.target = s.playbackTarget
  | .initDisp | .guessDisp | .capReset | .capClear | .capSize | .goCmp => True

/-- The game's invariant while the foreground does not wait and no handler is active (R210): the key line is Masked, timer 0
is stopped and not pending, nothing is being played. -/
structure AtRest (s : State) : Prop where
  base : BlockInv s
  cap : s.rb.cap = 4#3
  enables : s.ic.irqEn = true ∧ s.ic.fiqEn = false ∧ s.ic.vectored = true ∧ s.ic.mod = 0x00#8
  vec : s.ic.vec = #v[.vTmr, .vNone, .vNone, .vNone, .vNone, .vNone, .vKey, .vNone]
  reload : s.tm[0].mode = .reload
  port : ∀ w, s.port = some w → quietWord w = true
  hpc : s.hpc = .idle
  masked : s.ic.msk = 0xFE#8
  stopped : s.tm[0].run = false
  settled : lineBit s.ic.pnd 0 = false
  unplayed : s.played = 0#8
  facts : restFacts s

theorem AtRest.fpc_ne_capWait {s : State} (hr : AtRest s) : s.fpc ≠ .capWait := by
  intro h
  simpa [restFacts, h] using hr.facts

theorem AtRest.fpc_ne_pbWait {s : State} (hr : AtRest s) : s.fpc ≠ .pbWait := by
  intro h
  simpa [restFacts, h] using hr.facts

theorem AtRest.gameInv {s : State} (hr : AtRest s) : GameInv s := by
  have hcap := hr.fpc_ne_capWait
  have hpb := hr.fpc_ne_pbWait
  have hfacts := hr.facts
  have hphase := hr.base.phase
  exact { hr with
    mask := .inl hr.masked
    armed := fun h => absurd h hcap
    disarmed := fun h => by simpa [restFacts, h] using hfacts
    key_ctx := by simp [hr.hpc, contextOf]
    key_before := by simp [hr.hpc]
    key_after := by simp [hr.hpc, afterScan]
    tmr_ctx := by simp [hr.hpc, contextOf]
    tmr_body := by simp [hr.hpc]
    run := by simp [hr.stopped, State.playing, hpb]
    tick := by simp [hr.settled]
    idle_played := fun _ => hr.unplayed
    wmark := by
      rintro (h | h | h | h) <;> simp only [restFacts, h] at hfacts
      · exact hfacts.2
      · exact hfacts.2.1
      · exact hfacts.2.1
    cleared := by
      rintro (h | h) <;> simp only [restFacts, h] at hfacts
      · exact hfacts.2.2
      · exact hfacts.2.2.1
    dest := by
      rintro (h | h) <;> simp only [restFacts, h] at hfacts
      exact hfacts.2.2.2
    captured := by
      intro hg _
      cases h : s.fpc <;> simp only [restFacts, phaseMatches, h] at hfacts hphase
      case idle => exact hfacts hg
      case pbWmark => exact hfacts
      case pbClear | pbTarget | pbStart => exact hfacts.1
      all_goals rcases hg with hg | hg <;> simp [hg] at hphase
    progress := fun h => absurd h.1 hpb
    complete := fun h => absurd h hpb }

/-- Outside the wait of a playback timer 0 is stopped and not pending (R210). -/
theorem GameInv.timer_quiet {s : State} (hs : GameInv s) (hpb : s.fpc ≠ .pbWait) :
    s.tm[0].run = false ∧ lineBit s.ic.pnd 0 = false :=
  ⟨by simpa [State.playing, hpb] using hs.run, by simpa [hpb] using hs.tick⟩

theorem GameInv.atRest {s : State} (hs : GameInv s) (hh : s.hpc = .idle) (hcap : s.fpc ≠ .capWait)
    (hpb : s.fpc ≠ .pbWait) : AtRest s := by
  have hphase := hs.base.phase
  have hfull := (hs.captured · hpb)
  exact { hs with
    hpc := hh
    masked := hs.mask.resolve_right fun h => hcap h.2
    stopped := (hs.timer_quiet hpb).1
    settled := (hs.timer_quiet hpb).2
    unplayed := hs.idle_played hpb
    facts := by
      unfold restFacts
      cases h : s.fpc <;> simp only [phaseMatches, h] at hphase ⊢
      case capWait => exact hcap h
      case pbWait => exact hpb h
      case idle => exact hfull
      case capArm => exact hs.disarmed h
      case pbWmark => exact hfull hphase
      case pbClear => exact ⟨hfull hphase, hs.wmark (by simp [h])⟩
      case pbTarget => exact ⟨hfull hphase, hs.wmark (by simp [h]), hs.cleared (by simp [h])⟩
      case pbStart => exact ⟨hfull hphase, hs.wmark (by simp [h]), hs.cleared (by simp [h]), hs.dest (by simp [h])⟩ }


/-! ### The acceptance of a quiet command -/

/-- A quiet command other than `FSM.LOOP` only answers (R305). -/
theorem exec_quiet {i : Instr} {s t : State} (hq : quietCommand i = true) (hl : i ≠ .fsmLoop) (h : exec i s = .next t) :
    ∃ r, t = s.withRes r := by
  cases i
  case fsmLoop => exact absurd rfl hl
  case sysRegrd a =>
    obtain ⟨r, hr⟩ := exec_sysRegrd a s
    rw [hr] at h
    cases h
    exact ⟨r, rfl⟩
  case rbIsEmpty | rbIsFull | rbSize | rbCapacity | kmScan =>
    cases h
    exact ⟨_, rfl⟩
  case tmIsRunning a =>
    simp only [exec, execTmIsRunning] at h
    cases ht : timerOf a <;> rw [ht] at h <;> cases h <;> exact ⟨_, rfl⟩
  all_goals cases hq

theorem quietWord_of_decode {w : CommandWord} {i : Instr} (h : decodeCommand w = .ok i) :
    quietWord w = quietCommand i := by
  rw [quietWord, h]

/-- A word accepted in an undisturbed game is a query, which only answers, or `FSM.LOOP` (R305). -/
theorem accept_quiet {w : CommandWord} {s t : State} (hw : quietWord w = true) (h : accept w s = .next t) :
    (∃ r, t = s.withRes r) ∨ t = loopStep s := by
  unfold accept at h
  cases hd : decodeCommand w with
  | error e => simp [quietWord, hd] at hw
  | ok i =>
    rw [hd] at h
    rw [quietWord_of_decode hd] at hw
    by_cases hl : i = .fsmLoop
    · subst hl
      cases h
      exact .inr rfl
    · exact .inl (exec_quiet hw hl h)

/-- What one update of a timer keeps, it keeps of timer 0, whichever timer it updates. -/
theorem timer0_set {α : Type} (f : Timer → α) {tm : Vector Timer 6} {k : Fin 6} {x : Timer} (h : f x = f tm[k.val]) :
    f (tm.set k.val x)[0] = f tm[0] := by
  by_cases hk : k.val = 0
  · simpa [hk] using h
  · rw [Vector.getElem_set_ne _ _ hk]

section Moves

variable {s : State} (hs : GameInv s)
include hs

theorem gameInv_consumeEvent : GameInv s.consumeEvent := by
  have hbase := blockInv_consumeEvent hs.base
  unfold State.consumeEvent at hbase ⊢
  split at hbase <;> exact { hs with base := hbase }

theorem gameInv_present {w : CommandWord} (hw : quietWord w = true) : GameInv (present w s) := by
  have hbase := blockInv_present hs.base w
  unfold present at hbase ⊢
  split at hbase
  · exact { hs with base := hbase, port := by simp [hw] }
  · exact hs

/-- The port is free again when its word has been taken (R101). -/
theorem gameInv_takeWord : GameInv { s with port := none } := { hs with base := { hs.base with }, port := nofun }

/-! ### The micro-steps of `FSM.LOOP` -/

theorem gameInv_loopAccept (hh : s.hpc = .idle) (hf : s.fpc = .idle) : GameInv (loopAccept s) := by
  have hr := hs.atRest hh (by simp [hf]) (by simp [hf])
  have hfull : s.gs = .showPassword ∨ s.gs = .showGuess → s.rb.full = true := by simpa [restFacts, hf] using hr.facts
  refine AtRest.gameInv { hr with base := blockInv_loopAccept hs.base, facts := ?_ }
  unfold loopAccept
  cases hg : s.gs <;> simp [restFacts, hg] at hfull ⊢ <;> exact hfull

theorem gameInv_loopStep (hh : s.hpc = .idle) (hf : s.fpc ≠ .idle) : GameInv (loopStep s) := by
  have hbase := blockInv_loopStep hs.base hf
  have hr := hs.atRest hh
  rcases loopStep_cases hf with ⟨h, e⟩ | ⟨h, e⟩ | ⟨h, e⟩ | ⟨h, e⟩ | ⟨h, e⟩ | ⟨h, hd, e⟩ | ⟨h, -, e⟩ | ⟨h, hsize, e⟩ |
    ⟨h, -, e⟩ | ⟨h, e⟩ | ⟨h, e⟩ | ⟨h, e⟩ | ⟨h, e⟩ | ⟨h, hd, e⟩ | ⟨h, -, e⟩ | ⟨h, g, v, hg, e⟩
  all_goals
    rw [e] at hbase ⊢
    simp only [h, ne_eq, reduceCtorEq, not_false_eq_true, forall_const] at hr
  · exact AtRest.gameInv { hr with base := hbase, facts := trivial }
  · exact AtRest.gameInv { hr with base := hbase, facts := trivial }
  · exact AtRest.gameInv { hr with base := hbase, facts := trivial }
  · exact AtRest.gameInv { hr with base := hbase, facts := rfl }
  · have hmsk : setLineBit s.ic.msk 6 false = 0xBE#8 := by rw [hr.masked]; decide
    have hdone : s.inputDone = false := hs.disarmed h
    exact { hs with
      base := hbase
      mask := .inr ⟨hmsk, rfl⟩
      armed := by simp [hmsk, hdone]
      disarmed := nofun
      key_ctx := by simp [hh, contextOf]
      tmr_ctx := by simp [hh, contextOf]
      run := by simp [hr.stopped, State.playing]
      tick := by simp [hr.settled]
      idle_played := fun _ => hr.unplayed
      wmark := by simp
      cleared := by simp
      dest := by simp
      captured := fun hg _ => hs.captured hg (by simp [h])
      progress := by simp [State.playing]
      complete := by simp }
  · have hpb : s.fpc ≠ .pbWait := by simp [h]
    exact AtRest.gameInv { hs with
      base := hbase
      hpc := hh
      masked := (hs.armed h hh).mp hd
      stopped := (hs.timer_quiet hpb).1
      settled := (hs.timer_quiet hpb).2
      unplayed := hs.idle_played hpb
      facts := trivial }
  · exact hs
  · have hfull : s.rb.full = true := by
      obtain ⟨-, hle, hiff, -⟩ := s.rb.size_bounds hs.base.rb
      rw [hs.cap] at hle hiff
      exact hiff.mp (le_antisymm hle hsize)
    exact AtRest.gameInv { hr with base := hbase, facts := fun _ => hfull }
  · exact AtRest.gameInv { hr with base := hbase, facts := trivial }
  · have hfull : s.rb.full = true := by simpa [restFacts, h] using hr.facts
    exact AtRest.gameInv { hr with base := hbase, facts := ⟨hfull, by simp [hs.cap]⟩ }
  · obtain ⟨hfull, hw⟩ : s.rb.full = true ∧ s.showWatermark = 4#8 := by simpa [restFacts, h] using hr.facts
    exact AtRest.gameInv { hr with base := hbase, facts := ⟨hfull, hw, rfl⟩ }
  · obtain ⟨hfull, hw, hdone⟩ : s.rb.full = true ∧ s.showWatermark = 4#8 ∧ s.showDone = false := by
      simpa [restFacts, h] using hr.facts
    exact AtRest.gameInv { hr with base := hbase, facts := ⟨hfull, hw, hdone, rfl⟩ }
  · obtain ⟨hfull, hw, hdone, ht⟩ :
        s.rb.full = true ∧ s.showWatermark = 4#8 ∧ s.showDone = false ∧ s.target = s.playbackTarget := by
      simpa [restFacts, h] using hr.facts
    have hlen : s.rb.contents.length = 4 := by simpa [hs.cap] using (s.rb.full_iff hs.base.rb).mp hfull
    exact { hs with
      base := hbase
      reload := by simp [hs.reload]
      mask := .inl hr.masked
      armed := nofun
      disarmed := nofun
      key_ctx := by simp [hh, contextOf]
      tmr_ctx := fun _ => rfl
      run := by simp [State.playing, hdone]
      tick := by simp [hr.settled]
      idle_played := by simp
      wmark := fun _ => hw
      cleared := fun _ => hdone
      dest := fun _ => ht
      captured := by simp
      progress := fun _ => by rw [hlen, hr.unplayed]; rfl
      complete := by simp [hdone] }
  · obtain ⟨hplayed, -⟩ := hs.complete h hd
    have hrun : s.tm[0].run = false := by simpa [State.playing, hd] using hs.run
    have hpnd : lineBit s.ic.pnd 0 = false := by simpa [hd, hh] using hs.tick
    refine AtRest.gameInv { hs with
      base := hbase
      hpc := hh
      masked := hs.mask.resolve_right (by simp [h])
      stopped := hrun
      settled := hpnd
      unplayed := hplayed
      facts := ?_ }
    simp only [restFacts, finishLoop]
    split <;> simp
  · exact hs
  · refine AtRest.gameInv { hr with base := hbase, facts := ?_ }
    rcases hg with rfl | rfl <;> simp [restFacts, finishLoop]

/-! ### The handlers -/

/-- A delivery of the key line finds it Unmasked, so a capture waits and has not seen its terminator (R210). -/
theorem gameInv_takeKey {l : Fin 8} (hh : s.hpc = .idle) (hd : s.ic.dispatchable l = true) (hv : s.ic.vec[l.val] = .vKey) :
    GameInv (takeInterrupt .vKey s) := by
  have hbase := blockInv_takeInterrupt hs.base hh .vKey
  have hl : l = 6 := hs.base.vec_key l hv
  subst hl
  have hne : s.ic.msk ≠ 0xFE#8 := by
    intro hm
    simp [IntCtl.dispatchable, IntCtl.deliverable, hm, lineBit] at hd
  obtain ⟨hm, hf⟩ := hs.mask.resolve_left hne
  have hdone : s.inputDone = false := by simpa [hne] using hs.armed hf hh
  exact { hs with
    base := hbase
    armed := nofun
    key_ctx := fun _ => ⟨hf, hm⟩
    key_before := fun _ => hdone
    key_after := nofun
    tmr_ctx := nofun
    tmr_body := nofun
    tick := fun hp => by simpa [hf] using hs.tick hp }

/-- A delivery of timer 0's line finds it pending, so a playback is going on (R210). -/
theorem gameInv_takeTimer {l : Fin 8} (hh : s.hpc = .idle) (hd : s.ic.dispatchable l = true) (hv : s.ic.vec[l.val] = .vTmr) :
    GameInv (takeInterrupt .vTmr s) := by
  have hbase := blockInv_takeInterrupt hs.base hh .vTmr
  have hl : l = 0 := hs.base.vec_tmr l hv
  subst hl
  have hp : lineBit s.ic.pnd 0 = true := by
    simp only [IntCtl.dispatchable, IntCtl.deliverable, Bool.and_eq_true] at hd
    tauto
  obtain ⟨hf, hdone⟩ := hs.tick hp
  have hdone : s.showDone = false := hdone.resolve_right (by simp [hh])
  exact { hs with
    base := hbase
    armed := nofun
    key_ctx := nofun
    key_before := nofun
    key_after := nofun
    tmr_ctx := fun _ => hf
    tmr_body := fun _ => hdone
    tick := fun _ => ⟨hf, .inl hdone⟩ }

/-- Inside `key_isr` a step may write the buffer, the terminator's two flags and the position, as long as the flags fit the
position. -/
theorem gameInv_within_key (hc : contextOf s.hpc = .key) {r : RingBuffer} {done seen : Bool} {p : Hpc}
    (hbase : BlockInv { s with rb := r, inputDone := done, termSeen := seen, hpc := p }) (hp : contextOf p = .key)
    (hcap : r.cap = 4#3) (hbefore : p = .kSettle1 ∨ p = .kScan → done = false) (hafter : afterScan p = true → done = seen) :
    GameInv { s with rb := r, inputDone := done, termSeen := seen, hpc := p } := by
  obtain ⟨hf, hm⟩ := hs.key_ctx hc
  have hphase : s.gs = .init ∨ s.gs = .guess := by simpa [phaseMatches, hf] using hs.base.phase
  have hidle : p ≠ .idle := by rintro rfl; cases hp
  have hbody : p ≠ .tBody := by rintro rfl; cases hp
  exact { hs with
    base := hbase
    cap := hcap
    armed := fun _ h => absurd h hidle
    disarmed := by simp [hf]
    key_ctx := fun _ => ⟨hf, hm⟩
    key_before := hbefore
    key_after := hafter
    tmr_ctx := by simp [hp]
    tmr_body := fun h => absurd h hbody
    tick := fun h => by simpa [hf] using hs.tick h
    captured := fun hg _ => by rcases hphase with h | h <;> simp [h] at hg
    progress := by simp [State.playing, hf]
    complete := by simp [hf] }

/-- The exit of `key_isr` masks the line exactly when the terminator has ended the capture (R199, R225). -/
theorem gameInv_keyStep (hc : contextOf s.hpc = .key) : GameInv (keyStep s) := by
  have hbase := blockInv_keyStep hs.base hc
  have hbefore (h : s.hpc = .kScan) : s.inputDone = s.termSeen := by
    rw [hs.key_before (.inr h), hs.base.termSeen_of_not_afterScan (by rw [h]; rfl)]
  rcases keyStep_cases hc with ⟨h, e⟩ | ⟨-, -, e⟩ | ⟨h, -, -, e⟩ | ⟨h, -, -, e⟩ | ⟨h, -, e⟩ | ⟨-, -, e⟩ | ⟨h, e⟩ | ⟨h, e⟩
  all_goals rw [e] at hbase ⊢
  · exact gameInv_within_key hs hc hbase rfl hs.cap (fun _ => hs.key_before (.inl h)) nofun
  · exact gameInv_within_key hs hc hbase rfl hs.cap (by simp) fun _ => rfl
  · exact gameInv_within_key hs hc hbase rfl hs.cap (by simp) fun _ => hbefore h
  · exact gameInv_within_key hs hc hbase rfl ((s.rb.put_cap _).trans hs.cap) (by simp) fun _ => hbefore h
  · exact gameInv_within_key hs hc hbase rfl hs.cap (by simp) fun _ => hs.key_after (by rw [h]; rfl)
  · exact hs
  · exact gameInv_within_key hs hc hbase rfl hs.cap (by simp) fun _ => hs.key_after (by rw [h]; rfl)
  · obtain ⟨hf, hm⟩ := hs.key_ctx hc
    obtain ⟨-, hp⟩ := hs.timer_quiet (by simp [hf])
    have hdone : s.inputDone = s.termSeen := hs.key_after (by rw [h]; rfl)
    have hmask : setLineBit 0xBE#8 6 true = 0xFE#8 := by decide
    exact { hs with
      base := hbase
      mask := by cases s.termSeen <;> simp [hmask, hm, hf]
      armed := fun _ _ => by rw [hdone]; cases s.termSeen <;> simp [hmask, hm]
      key_ctx := nofun
      key_before := by simp
      key_after := nofun
      tmr_ctx := nofun
      tmr_body := nofun
      tick := by simp [hp] }

/-- The body of `timer_isr` in a game: at four bytes played the buffer is empty and the playback is complete; before, the
buffer holds a byte, which is played (R208, R228). -/
theorem timerStep_game_cases (hc : contextOf s.hpc = .tmr) :
    (s.hpc = .tBody ∧ s.played = 4#8 ∧ s.rb.contents = [] ∧ timerStep s = { s with
      tm := s.tm.set 0 { s.tm[0] with run := false }, played := 0#8, showDone := true, hpc := .tExit }) ∨
    (s.hpc = .tBody ∧ s.played.toNat < 4 ∧ ∃ v r, s.rb.get = some (v, r) ∧ s.rb.contents = v :: r.contents ∧
      timerStep s = { s with
        rb := r
        pwd := if s.target = .tPwd then s.pwd.setIfInBounds s.played.toNat v else s.pwd
        guess := if s.target = .tGuess then s.guess.setIfInBounds s.played.toNat v else s.guess
        disp := v
        trace := s.trace ++ [v]
        played := s.played + 1#8
        hpc := .tExit }) ∨
    (s.hpc = .tExit ∧ timerStep s = { s with
      ic := { s.ic with pnd := setLineBit s.ic.pnd 0 false }, hpc := .idle }) := by
  have hf := hs.tmr_ctx hc
  have hw : s.showWatermark = 4#8 := hs.wmark (by simp [hf])
  have hprogress (h : s.hpc = .tBody) : s.rb.contents.length + s.played.toNat = 4 :=
    hs.progress ⟨hf, hs.tmr_body h⟩
  rcases timerStep_cases hc with ⟨h, heq, e⟩ | ⟨h, hne, hg, e⟩ | ⟨h, hne, v, r, hg, e⟩ | ⟨h, e⟩
  · have hp := hprogress h
    rw [hw] at heq
    rw [heq] at hp
    exact .inl ⟨h, heq, List.length_eq_zero_iff.mp (by simpa using hp), e⟩
  · have hp := hprogress h
    rw [RingBuffer.contents_of_get_none hs.base.rb hg, List.length_nil, Nat.zero_add] at hp
    exact absurd (BitVec.eq_of_toNat_eq hp) (hw ▸ hne)
  · have hp := hprogress h
    have hcons := RingBuffer.contents_of_get_some hs.base.rb hg
    rw [hcons, List.length_cons] at hp
    exact .inr (.inl ⟨h, by omega, v, r, hg, hcons, e⟩)
  · exact .inr (.inr ⟨h, e⟩)

theorem gameInv_timerStep (hc : contextOf s.hpc = .tmr) : GameInv (timerStep s) := by
  have hbase := blockInv_timerStep hs.base hc
  have hf := hs.tmr_ctx hc
  rcases timerStep_game_cases hs hc with ⟨h, -, hnil, e⟩ | ⟨h, hlt, v, r, hg, hcons, e⟩ | ⟨h, e⟩
  all_goals rw [e] at hbase ⊢
  · exact { hs with
      base := hbase
      reload := by simp [hs.reload]
      armed := nofun
      key_ctx := nofun
      key_before := by simp
      key_after := nofun
      tmr_ctx := fun _ => hf
      tmr_body := nofun
      run := by simp [State.playing]
      tick := fun _ => ⟨hf, .inr rfl⟩
      idle_played := fun _ => rfl
      cleared := by simp [hf]
      progress := by simp [State.playing]
      complete := fun _ _ => ⟨rfl, (s.rb.isEmpty_iff hs.base.rb).mpr hnil⟩ }
  · have hdone := hs.tmr_body h
    have hp := hs.progress ⟨hf, hdone⟩
    rw [hcons, List.length_cons] at hp
    exact { hs with
      base := hbase
      cap := (s.rb.get_cap hg).trans hs.cap
      armed := nofun
      key_ctx := nofun
      key_before := by simp
      key_after := nofun
      tmr_ctx := fun _ => hf
      tmr_body := nofun
      tick := fun _ => ⟨hf, .inl hdone⟩
      idle_played := fun h => absurd hf h
      captured := fun _ h => absurd hf h
      progress := fun _ => by simp only; bv_omega
      complete := by simp [hdone] }
  · exact { hs with
      base := hbase
      armed := by simp [hf]
      key_ctx := nofun
      key_before := by simp
      key_after := nofun
      tmr_ctx := nofun
      tmr_body := nofun
      tick := by simp }

/-! ### The timers and the inputs -/

/-- The invariant reads the mode and the run bit of timer 0 and its line's pending bit, which may be set during a playback
(R210). -/
theorem gameInv_of_timers {tm : Vector Timer 6} {pnd : Byte}
    (hbase : BlockInv { s with tm := tm, ic := { s.ic with pnd := pnd } })
    (hmode : tm[0].mode = s.tm[0].mode) (hrun : tm[0].run = s.tm[0].run)
    (htick : lineBit pnd 0 = true → lineBit s.ic.pnd 0 = true ∨ s.playing) :
    GameInv { s with tm := tm, ic := { s.ic with pnd := pnd } } :=
  { hs with
    base := hbase
    reload := hmode.trans hs.reload
    run := by rw [hrun]; exact hs.run
    tick := fun h => (htick h).elim hs.tick fun hp => ⟨hp.1, .inl hp.2⟩ }

theorem gameInv_count (k : Fin 6) (c : Half) : GameInv (s.withTimer k { s.tm[k.val] with cnt := c }) := by
  have hbase : BlockInv (s.withTimer k { s.tm[k.val] with cnt := c }) :=
    { hs.base with div_ok := DividersOk.set hs.base.div_ok (hs.base.div_ok k) }
  refine gameInv_of_timers hs (pnd := s.ic.pnd) hbase ?_ ?_ .inl
  · exact timer0_set Timer.mode rfl
  · exact timer0_set Timer.run rfl

/-- Timer 0 expires only during a playback and runs on; another timer is no timer of the game (R163, R210). -/
theorem gameInv_expire {k : Fin 6} (hr : s.tm[k.val].run = true) : GameInv (expire k s) := by
  have hbase := blockInv_expire hs.base k
  rw [expire_eq] at hbase ⊢
  by_cases hk : k.val = 0
  · have hreload : s.tm[k.val].mode = .reload := by simpa [hk] using hs.reload
    have hplaying : s.playing := hs.run.mp (by simpa [hk] using hr)
    rw [if_pos hreload] at hbase ⊢
    exact gameInv_of_timers hs hbase (timer0_set Timer.mode rfl) (timer0_set Timer.run rfl) fun _ => .inr hplaying
  · refine gameInv_of_timers hs hbase ?_ ?_ fun hp => .inl ?_
    · rw [Vector.getElem_set_ne _ _ hk]
    · rw [Vector.getElem_set_ne _ _ hk]
    · rw [lineBit_setLineBit_lineTmr] at hp
      simpa [Ne.symm hk] using hp

theorem gameInv_inputChange (rows : Vector Nibble 4) (pin : Bool) : GameInv (inputChange rows pin s) := by
  have hbase := blockInv_inputChange hs.base rows pin
  unfold inputChange at hbase ⊢
  dsimp only at hbase ⊢
  split_ifs at hbase ⊢
  · exact { hs with base := hbase, tick := by simpa [setPending, Config.lineKey] using hs.tick }
  · exact { hs with base := hbase }

/-! ### Every quiet move -/

theorem gameInv_accept {w : CommandWord} {t : State} (hh : s.hpc = .idle) (hf : s.fpc = .idle) (hw : quietWord w = true)
    (h : accept w s = .next t) : GameInv t := by
  rcases accept_quiet hw h with ⟨r, rfl⟩ | rfl
  · exact gameInv_withRes hs r
  · rw [loopStep, hf]
    exact gameInv_loopAccept hs hh hf

theorem gameInv_turn {e : Event} {t : State} (he : quietEvent e = true) (h : turn e s = .next t) : GameInv t := by
  cases e with
  | rst => cases he
  | present w =>
    cases h
    exact gameInv_present hs he
  | foreground =>
    rcases foregroundTurn_cases h with ⟨rfl, -⟩ | ⟨hh, hf, w, hp, ha⟩ | ⟨hh, hf, rfl⟩
    · exact hs
    · exact gameInv_accept (gameInv_takeWord hs) hh hf (hs.port w hp) ha
    · exact gameInv_loopStep hs hh hf
  | handler =>
    rcases handlerTurn_cases h with ⟨-, rfl⟩ | ⟨hc, rfl⟩ | ⟨hc, rfl⟩
    · exact hs
    · exact gameInv_keyStep hs hc
    · exact gameInv_timerStep hs hc
  | deliver l =>
    rcases deliverTurn_cases h with rfl | ⟨hh, hd, ⟨hv, rfl⟩ | ⟨hv, rfl⟩⟩
    · exact hs
    · exact gameInv_takeKey hs hh hd hv
    · exact gameInv_takeTimer hs hh hd hv
  | pulse k =>
    cases h
    rcases pulse_cases k s with ⟨-, e⟩ | ⟨-, -, e⟩ | ⟨hr, -, e⟩
    all_goals rw [e]
    · exact hs
    · exact gameInv_count hs k _
    · exact gameInv_expire hs hr
  | input rows pin =>
    cases h
    exact gameInv_inputChange hs rows pin

end Moves

/-- Settles O59: using the move up keeps the invariant, and so does every quiet move of each agent. -/
theorem undisturbedStepsKeepTheGameInvariant : Obligations.UndisturbedStepsKeepTheGameInvariant :=
  fun _ _ hs he h => gameInv_turn (gameInv_consumeEvent hs) he h

end Sys2Proof.Machine
end

section
/-! PROOFS. The game orchestrator's micro-steps one by one (44_game_fsm.md R190 to R206): O33 to O38; the turns of the two
sequencers (O7); and the transition table of `gs` (O39). -/

namespace Sys2Proof.Machine

open Sys2Proof

/-! ### The turns of the two sequencers -/

theorem step_of_foreground {s : State} (he : s.nextEvent = .foreground) : step s = foregroundTurn s.consumeEvent := by
  rw [step, he, turn]

theorem step_of_handler {s : State} (he : s.nextEvent = .handler) : step s = handlerTurn s.consumeEvent := by
  rw [step, he, turn]

/-- Settles O7, by the two turns' own conditions. -/
theorem stepContinuesTheActiveSequencer : Obligations.StepContinuesTheActiveSequencer := by
  intro s
  refine ⟨fun he hh hf => ?_, fun he hh => ?_, fun he hh hf hp => ?_, fun he hc => ?_, fun he hc => ?_, fun he hh => ?_⟩
  · simp [step_of_foreground he, foregroundTurn, hh, hf]
  · simp [step_of_foreground he, foregroundTurn, hh]
  · simp [step_of_foreground he, foregroundTurn, hh, hf, hp]
  · simp [step_of_handler he, handlerTurn, hc]
  · simp [step_of_handler he, handlerTurn, hc]
  · simp [step_of_handler he, handlerTurn, hh, contextOf]

/-! ### FSM.SETUP -/

/-- Settles O33: the two halves of the set-up in closed form, the line masks evaluated. -/
theorem setupEstablishesTheGameState : Obligations.SetupEstablishesTheGameState := by
  intro s
  have hmsk : setLineBit (setLineBit 0xFF#8 0 false) 6 true = 0xFE#8 := by decide
  have hmod : setLineBit (setLineBit 0x00#8 0 false) 6 false = 0x00#8 := by decide
  simp only [exec, execFsmSetup, done, setupInterrupts_eq, setupState_eq, hmsk, hmod]
  rfl

/-! ### FSM.LOOP -/

theorem exec_fsmLoop (s : State) : exec .fsmLoop s = .next (loopStep s) := rfl

/-- Settles O34, by the position of the foreground. -/
theorem loopAcceptanceAndDisplaySteps : Obligations.LoopAcceptanceAndDisplaySteps := by
  intro s
  refine ⟨fun h => ?_, fun h => ?_, fun h => ?_⟩
  all_goals
    rw [exec_fsmLoop, loopStep, h]
    rfl

/-- Settles O35, by the position of the foreground. -/
theorem captureStepsResetClearArmWait : Obligations.CaptureStepsResetClearArmWait := by
  intro s
  refine ⟨fun h => ?_, fun h => ?_, fun h => ⟨setLineBit s.ic.msk 6 false, fun k => lineBit_setLineBit .., ?_⟩, fun h => ?_⟩
  all_goals
    rw [exec_fsmLoop, loopStep, h]
    rfl

/-- The end of a LOOP with one of two next states: the result word is the code of the one taken (R191, R192). -/
theorem finishLoop_ite (c : Prop) [Decidable c] (g g' : GameState) (s : State) :
    finishLoop (if c then g else g') s = { s with
      gs := if c then g else g'
      fpc := .idle
      res := some (if c then (gameCode g).setWidth 32 else (gameCode g').setWidth 32) } := by
  split_ifs <;> rfl

/-- Settles O37, by the position of the foreground. -/
theorem playbackStepsArmAndWait : Obligations.PlaybackStepsArmAndWait := by
  intro s
  refine ⟨fun h => ?_, fun h => ?_, fun h => ?_, fun h => ?_, fun h => ?_⟩
  all_goals rw [exec_fsmLoop, loopStep, h]
  on_goal 5 => simp only [stepPbWait, finishLoop_ite]
  all_goals rfl

/-- Settles O36: the buffer holds at most four bytes, so a size of at least four is four. -/
theorem captureEndsAtFourKeys : Obligations.CaptureEndsAtFourKeys := by
  intro s h hr
  have hle := s.rb.contents_length_le hr
  have hcap := hr.cap_le
  have hfour : (Config.pwLen : Int) ≤ s.rb.contents.length ↔ s.rb.contents.length = 4 := by
    rw [Config.pwLen]
    omega
  rw [exec_fsmLoop, loopStep, h]
  simp only [stepCapSize, s.rb.size_eq_length hr, BitVec.ofInt_natCast, hfour, finishLoop_ite]
  by_cases hl : s.rb.contents.length = 4
  · rw [if_pos hl, if_pos hl, hl]
    rfl
  · rw [if_neg hl, if_neg hl]
    rfl

/-- Two result buffers are equal when their four bytes are. -/
theorem cells_eq_iff (v w : Vector Byte 4) : v[0] = w[0] ∧ v[1] = w[1] ∧ v[2] = w[2] ∧ v[3] = w[3] ↔ v = w := by
  obtain ⟨a, b, c, d, rfl⟩ := RingBuffer.buf_cells v
  obtain ⟨a', b', c', d', rfl⟩ := RingBuffer.buf_cells w
  simp

/-- Settles O38: the comparison byte by byte is that of the buffers. -/
theorem compareDecidesTheNextRound : Obligations.CompareDecidesTheNextRound := by
  intro s h
  rw [exec_fsmLoop, loopStep, h]
  simp only [stepGoCmp, cells_eq_iff]
  rfl

/-! ### The transition table -/

/-- Who moves the foreground: reset, the acceptance of `FSM.SETUP` or `FSM.LOOP`, a micro-step of `FSM.LOOP`; every other move
keeps its position and `gs` (R31, R191). -/
inductive ForegroundTurn (e : Event) (s t : State) : Prop
  | kept (hf : t.fpc = s.fpc) (hg : t.gs = s.gs)
  | reset (he : e = .rst) (h : t = hardwareReset s)
  | setup (w : CommandWord) (he : e = .foreground) (hh : s.hpc = .idle) (hf : s.fpc = .idle) (hp : s.port = some w)
      (hd : decodeCommand w = .ok .fsmSetup) (h : t.fpc = .idle ∧ t.gs = .init)
  | accept (hf : s.fpc = .idle) (h : t = loopAccept { s with port := none })
  | loop (he : e = .foreground) (hh : s.hpc = .idle) (hf : s.fpc ≠ .idle) (h : t = loopStep s)

theorem turn_foreground {e : Event} {s t : State} (h : turn e s = .next t) : ForegroundTurn e s t := by
  rcases turn_cases h with ⟨w, -, rfl⟩ | rfl | ⟨he, hh, hf, w, hp, hw⟩ | ⟨he, hh, hf, rfl⟩ | ⟨-, -, rfl⟩ | ⟨-, -, rfl⟩ |
    ⟨l, -, -, -, -, rfl⟩ | ⟨l, -, -, -, -, rfl⟩ | ⟨k, -, -, -, rfl⟩ | ⟨k, -, -, -, rfl⟩ | ⟨rows, pin, -, rfl⟩ | ⟨he, rfl⟩
  · unfold present
    split <;> exact .kept rfl rfl
  · exact .kept rfl rfl
  · rcases hw with ⟨-, rfl⟩ | ⟨hd, rfl⟩ | ⟨-, rfl⟩ | ⟨i, -, -, -, -, ht⟩
    · exact .kept rfl rfl
    · refine .setup w he hh hf hp hd ?_
      rw [setupInterrupts_eq, setupState_eq]
      exact ⟨hf, rfl⟩
    · exact .accept hf rfl
    · rw [ht]
      exact .kept rfl rfl
  · exact .loop he hh hf rfl
  · rw [keyStep_frame]
    exact .kept rfl rfl
  · rw [timerStep_frame]
    exact .kept rfl rfl
  · exact .kept rfl rfl
  · exact .kept rfl rfl
  · exact .kept rfl rfl
  · exact .kept rfl rfl
  · unfold inputChange
    dsimp only
    split <;> exact .kept rfl rfl
  · exact .reset he rfl

/-- A row of the transition table (R192): the position at which an `FSM.LOOP` ends, its source and its target state. -/
def GameRow (p : Fpc) (g g' : GameState) : Prop :=
  (p = .capSize ∧ g = .init ∧ g' = .showPassword) ∨
  (p = .pbWait ∧ g = .showPassword ∧ g' = .guess) ∨
  (p = .capSize ∧ g = .guess ∧ g' = .showGuess) ∨
  (p = .pbWait ∧ g = .showGuess ∧ g' = .gameOver) ∨
  (p = .goCmp ∧ g = .gameOver ∧ (g' = .init ∨ g' = .guess))

/-- A micro-step of `FSM.LOOP` keeps `gs`, or ends the LOOP along a row of the table. -/
theorem loopStep_gs {s : State} (hs : BlockInv s) (hf : s.fpc ≠ .idle) : (loopStep s).gs = s.gs ∨
    ∃ g u, loopStep s = finishLoop g u ∧ GameRow s.fpc s.gs g := by
  have hphase := hs.phase
  rcases loopStep_cases hf with ⟨-, e⟩ | ⟨-, e⟩ | ⟨-, e⟩ | ⟨-, e⟩ | ⟨-, e⟩ | ⟨-, -, e⟩ | ⟨-, -, e⟩ | ⟨h, -, e⟩ | ⟨-, -, e⟩ |
    ⟨-, e⟩ | ⟨-, e⟩ | ⟨-, e⟩ | ⟨-, e⟩ | ⟨h, -, e⟩ | ⟨-, -, e⟩ | ⟨h, g, v, hg, e⟩
  on_goal 16 =>
    have hover : s.gs = .gameOver := by simpa [phaseMatches, h] using hphase
    exact .inr ⟨g, _, e, by simpa [GameRow, h, hover] using hg⟩
  on_goal 14 =>
    have hshow : s.gs = .showPassword ∨ s.gs = .showGuess := by simpa [phaseMatches, h] using hphase
    exact .inr ⟨_, _, e, by rcases hshow with hg | hg <;> simp [GameRow, h, hg]⟩
  on_goal 8 =>
    have hcapture : s.gs = .init ∨ s.gs = .guess := by simpa [phaseMatches, h] using hphase
    exact .inr ⟨_, _, e, by rcases hcapture with hg | hg <;> simp [GameRow, h, hg]⟩
  all_goals exact .inl (congrArg State.gs e :)

/-- Settles O39: of the moves that reach the foreground, a micro-step of `FSM.LOOP` changes `gs` by a row of the table, and the
acceptance of `FSM.LOOP` keeps it. -/
theorem gameStateFollowsTheTable : Obligations.GameStateFollowsTheTable := by
  intro s t hs h hne
  obtain ⟨es, n, hstep⟩ := step_eq_turn s
  rw [hstep] at h
  cases turn_foreground h with
  | kept hf hg => exact absurd hg hne
  | reset he h => exact .inl ⟨he, by rw [h]; rfl⟩
  | setup w he hh hf hp hd h => exact .inr (.inl ⟨he, hh, hf, h.2, w, hp, hd⟩)
  | accept hf h => exact absurd (by rw [h]; rfl) hne
  | loop he hh hf h =>
    subst h
    have hu : BlockInv { s with sched := es, tick := n, res := none } := { hs with }
    rcases loopStep_gs hu hf with hg | ⟨g, u, e, hrow⟩
    · exact absurd hg hne
    · rw [e]
      exact .inr (.inr ⟨he, hh, rfl, rfl, hrow⟩)

end Sys2Proof.Machine
end

section
/-! PROOFS. The playback of an undisturbed game (45_event_handlers.md R228; 70_reset_and_hazards.md R305): what a quiet move makes
of the registers a playback works on, and the bytes it plays (O60). -/

namespace Sys2Proof.Machine

open Sys2Proof

/-! ### The registers of a playback -/

/-- The registers that make up a playback: the bytes left and stored (R21, R23), its count and its flag (R24, R27), the
foreground (R30, R31), the display and its trace (R46). -/
structure PlayRegs where
  rb : RingBuffer
  pwd : Vector Byte 4
  guess : Vector Byte 4
  played : Byte
  showDone : Bool
  gs : GameState
  fpc : Fpc
  disp : Byte
  trace : List Byte

/-- Their values in a state. -/
@[simps] def State.playRegs (s : State) : PlayRegs :=
  { rb := s.rb, pwd := s.pwd, guess := s.guess, played := s.played, showDone := s.showDone, gs := s.gs, fpc := s.fpc,
    disp := s.disp, trace := s.trace }

/-- What a quiet move makes of these registers while the foreground waits for a playback: nothing, the next byte played, the
completion at four bytes, or the end of the LOOP after the completion (R205, R228). -/
inductive PlaybackTurn (s t : State) : Prop
  | kept (h : t.playRegs = s.playRegs)
  | play (v : Byte) (r : RingBuffer) (hd : s.showDone = false) (hlt : s.played.toNat < 4)
      (hcons : s.rb.contents = v :: r.contents)
      (h : t.playRegs = { s.playRegs with
        rb := r
        pwd := if s.target = .tPwd then s.pwd.setIfInBounds s.played.toNat v else s.pwd
        guess := if s.target = .tGuess then s.guess.setIfInBounds s.played.toNat v else s.guess
        disp := v
        trace := s.trace ++ [v]
        played := s.played + 1#8 })
  | complete (hd : s.showDone = false) (hp : s.played = 4#8) (hnil : s.rb.contents = [])
      (h : t.playRegs = { s.playRegs with played := 0#8, showDone := true })
  | finish (hd : s.showDone = true)
      (h : t.playRegs = { s.playRegs with gs := if s.gs = .showPassword then .guess else .gameOver, fpc := .idle })

theorem turn_playback {e : Event} {s t : State} (hs : GameInv s) (hf : s.fpc = .pbWait) (he : quietEvent e = true)
    (h : turn e s = .next t) : PlaybackTurn s t := by
  rcases turn_cases h with ⟨w, -, rfl⟩ | rfl | ⟨-, -, hi, -⟩ | ⟨-, -, -, rfl⟩ | ⟨-, hc, rfl⟩ | ⟨-, hc, rfl⟩ |
    ⟨l, -, -, -, -, rfl⟩ | ⟨l, -, -, -, -, rfl⟩ | ⟨k, -, -, -, rfl⟩ | ⟨k, -, -, -, rfl⟩ | ⟨rows, pin, -, rfl⟩ | ⟨rfl, -⟩
  · unfold present
    split <;> exact .kept rfl
  · exact .kept rfl
  · simp [hf] at hi
  · have hl : loopStep s = stepPbWait s := by simp only [loopStep, hf]
    rw [hl, stepPbWait, finishLoop_ite]
    by_cases hd : s.showDone = true
    · rw [if_pos hd]
      exact .finish hd rfl
    · rw [if_neg hd]
      exact .kept rfl
  · simp [(hs.key_ctx hc).1] at hf
  · rcases timerStep_game_cases hs hc with ⟨hh, hp, hnil, e⟩ | ⟨hh, hlt, v, r, -, hcons, e⟩ | ⟨-, e⟩
    all_goals rw [e]
    · exact .complete (hs.tmr_body hh) hp hnil rfl
    · exact .play v r (hs.tmr_body hh) hlt hcons rfl
    · exact .kept rfl
  · exact .kept rfl
  · exact .kept rfl
  · exact .kept rfl
  · exact .kept rfl
  · unfold inputChange
    dsimp only
    split <;> exact .kept rfl
  · cases he

/-! ### The bytes of a playback -/

/-- The sequence is a function of the playback's registers. -/
theorem playbackBytes_congr {s t : State} (h : t.playRegs = s.playRegs) : t.playbackBytes = s.playbackBytes := by
  obtain ⟨hrb, hpwd, hguess, hplayed, hdone, hgs, -⟩ := PlayRegs.mk.inj h
  simp only [State.playbackBytes, State.playbackBuffer, hrb, hpwd, hguess, hplayed, hdone, hgs]

theorem playbackBytes_of_going_on {s : State} (h : s.showDone = false) :
    s.playbackBytes = s.playbackBuffer.toList.take s.played.toNat ++ s.rb.contents := by
  simp [State.playbackBytes, h]

theorem playbackBytes_of_done {s : State} (h : s.showDone = true) : s.playbackBytes = s.playbackBuffer.toList := if_pos h

/-- A byte stored at an index extends the bytes up to it. -/
theorem take_toList_setIfInBounds (b : Vector Byte 4) {n : Nat} (hn : n < 4) (v : Byte) :
    (b.setIfInBounds n v).toList.take (n + 1) = b.toList.take n ++ [v] := by
  rw [Vector.toList_setIfInBounds, List.take_add_one, List.take_set_of_le le_rfl]
  simp [hn]

/-- A stored byte goes into the buffer that the present `gs` plays into (R203, R228). -/
theorem playbackBuffer_of_stored {s t : State} {n : Nat} {v : Byte} (ht : s.target = s.playbackTarget) (hgs : t.gs = s.gs)
    (hpwd : t.pwd = if s.target = .tPwd then s.pwd.setIfInBounds n v else s.pwd)
    (hguess : t.guess = if s.target = .tGuess then s.guess.setIfInBounds n v else s.guess) :
    t.playbackBuffer = s.playbackBuffer.setIfInBounds n v := by
  rw [ht, State.playbackTarget] at hpwd hguess
  by_cases hg : s.gs = .showPassword <;> simp [State.playbackBuffer, hgs, hpwd, hguess, hg]

/-! ### A playback's start, moves and end -/

section Playback

variable {e : Event} {s t : State} (hs : GameInv s) (he : quietEvent e = true) (h : turn e s = .next t)
include hs he h

theorem playbackBytes_of_start (hf : s.fpc = .pbStart) (hf' : t.fpc = .pbWait) : t.playbackBytes = s.rb.contents := by
  cases turn_foreground h with
  | kept hk _ => simp [hk, hf] at hf'
  | reset hr _ => simp [hr, quietEvent] at he
  | setup _ _ _ hi | accept hi _ => simp [hf] at hi
  | loop _ hh _ ht =>
    have hr := hs.atRest hh (by simp [hf]) (by simp [hf])
    have hl : loopStep s = stepPbStart s := by simp only [loopStep, hf]
    have hplayed : t.played = 0#8 := by rw [ht, hl]; exact hr.unplayed
    have hdone : t.showDone = false := by rw [ht, hl]; exact hs.cleared (.inr hf)
    have hrb : t.rb = s.rb := by rw [ht, hl]; rfl
    rw [playbackBytes_of_going_on hdone, hplayed, hrb]
    rfl

/-- During a playback the sequence stays, and a move plays the next byte of it, completes it, or plays nothing. -/
theorem playback_goes_on (hf : s.fpc = .pbWait) (hf' : t.fpc = .pbWait) : t.playbackBytes = s.playbackBytes ∧
    ((∃ b, s.playbackBytes[s.played.toNat]? = some b ∧ t.played = s.played + 1#8 ∧ t.disp = b ∧
        t.trace = s.trace ++ [b]) ∨
      (s.played = 4#8 ∧ t.played = 0#8 ∧ s.showDone = false ∧ t.showDone = true ∧ t.disp = s.disp ∧
        t.trace = s.trace) ∨
      (t.played = s.played ∧ t.showDone = s.showDone ∧ t.disp = s.disp ∧ t.trace = s.trace)) := by
  cases turn_playback hs hf he h with
  | kept hk =>
    refine ⟨playbackBytes_congr hk, .inr (.inr ?_)⟩
    obtain ⟨-, -, -, hplayed, hdone, -, -, hdisp, htrace⟩ := PlayRegs.mk.inj hk
    exact ⟨hplayed, hdone, hdisp, htrace⟩
  | play v r hd hlt hcons hk =>
    obtain ⟨hrb, hpwd, hguess, hplayed, hdone, hgs, -, hdisp, htrace⟩ := PlayRegs.mk.inj hk
    have hbuf := playbackBuffer_of_stored (hs.dest (.inr hf)) hgs hpwd hguess
    have hnext : t.played.toNat = s.played.toNat + 1 := by rw [hplayed]; bv_omega
    have hbytes := playbackBytes_of_going_on hd
    rw [hcons] at hbytes
    constructor
    · rw [hbytes, playbackBytes_of_going_on (hdone.trans hd), hbuf, hnext, take_toList_setIfInBounds _ hlt, hrb]
      simp
    · refine .inl ⟨v, ?_, hplayed, hdisp, htrace⟩
      rw [hbytes, List.getElem?_append_right (by simp)]
      simp [hlt.le]
  | complete hd hp hnil hk =>
    obtain ⟨-, hpwd, hguess, hplayed, hdone, hgs, -, hdisp, htrace⟩ := PlayRegs.mk.inj hk
    refine ⟨?_, .inr (.inl ⟨hp, hplayed, hd, hdone, hdisp, htrace⟩)⟩
    have hbuf : t.playbackBuffer = s.playbackBuffer := by
      simp only [State.playbackBuffer, hpwd, hguess, hgs, State.playRegs]
    rw [playbackBytes_of_done hdone, playbackBytes_of_going_on hd, hbuf, hp, hnil, List.append_nil]
    exact (List.take_of_length_le (by simp)).symm
  | finish hd hk =>
    obtain ⟨-, -, -, -, -, -, hidle, -, -⟩ := PlayRegs.mk.inj hk
    simp [hidle] at hf'

/-- A LOOP leaves the wait only after the completion, with the sequence stored (R205). -/
theorem playback_ends (hf : s.fpc = .pbWait) (hf' : t.fpc ≠ .pbWait) : s.playbackBuffer.toList = s.playbackBytes ∧
    t.pwd = s.pwd ∧ t.guess = s.guess ∧ t.rb.isEmpty = true ∧ t.played = 0#8 ∧ t.tm[0].run = false ∧
    t.gs = if s.gs = .showPassword then .guess else .gameOver := by
  have ht : GameInv t := gameInv_turn hs he h
  cases turn_playback hs hf he h with
  | kept hk | play _ _ _ _ _ hk | complete _ _ _ hk =>
    obtain ⟨-, -, -, -, -, -, hwait, -, -⟩ := PlayRegs.mk.inj hk
    exact absurd (hwait.trans hf) hf'
  | finish hd hk =>
    obtain ⟨hrb, hpwd, hguess, -, -, hgs, -, -, -⟩ := PlayRegs.mk.inj hk
    refine ⟨(playbackBytes_of_done hd).symm, hpwd, hguess, ?_, ht.idle_played hf', (ht.timer_quiet hf').1, hgs⟩
    rw [hrb]
    exact (hs.complete hf hd).2

end Playback

/-- Settles O60: the start, the moves and the end of a playback, each for the move that the step makes. -/
theorem playbackPlaysTheCapturedBytes : Obligations.PlaybackPlaysTheCapturedBytes := by
  intro s t hs he h
  obtain ⟨es, n, hstep⟩ := step_eq_turn s
  rw [hstep] at h
  have hu : GameInv { s with sched := es, tick := n, res := none } := { hs with base := { hs.base with } }
  have hstart := playbackBytes_of_start hu he h
  have hmove := playback_goes_on hu he h
  have hend := playback_ends hu he h
  exact ⟨hstart, hmove, hend⟩

end Sys2Proof.Machine
end

section
/-! PROOFS. The event handlers (45_event_handlers.md R220 to R230): their micro-steps one by one (O40 to O43), and each handler
from its delivery to its return (O44, O45). -/

namespace Sys2Proof.Machine

open Sys2Proof

theorem exec_keyIsr (s : State) : exec .keyIsr s = .next (keyStep s) := rfl

theorem exec_timerIsr (s : State) : exec .timerIsr s = .next (timerStep s) := rfl

/-- A dispatchable line is Unmasked (R258, R260). -/
theorem IntCtl.unmasked_of_dispatchable {ic : IntCtl} {l : Fin 8} (h : ic.dispatchable l = true) :
    lineBit ic.msk l = false := by
  simp only [IntCtl.dispatchable, IntCtl.deliverable, Bool.and_eq_true, Bool.not_eq_true'] at h
  obtain ⟨⟨⟨⟨⟨-, hmsk⟩, -⟩, -⟩, -⟩, -⟩ := h
  exact hmsk

/-! ### timer_isr -/

section TimerBody

variable {s : State} (hh : s.hpc = .tBody)
include hh

theorem timerStep_of_watermark (hp : s.played = s.showWatermark) : timerStep s = { s with
    tm := s.tm.set 0 { s.tm[0] with run := false }, played := 0#8, showDone := true, hpc := .tExit } := by
  rw [timerStep, hh]
  simp only [stepTBody, if_pos hp]
  rfl

theorem timerStep_of_not_watermark (hp : s.played ≠ s.showWatermark) :
    timerStep s = (playByte s).withHpc .tExit := by
  rw [timerStep, hh]
  simp only [stepTBody, if_neg hp]

theorem timerStep_of_empty (hp : s.played ≠ s.showWatermark) (he : s.rb.isEmpty = true) :
    timerStep s = { s with played := s.played + 1#8, hpc := .tExit } := by
  have hg : s.rb.get = none := if_pos he
  rw [timerStep_of_not_watermark hh hp, playByte_eq, hg]
  rfl

theorem timerStep_of_byte (hp : s.played ≠ s.showWatermark) {v : Byte} {r : RingBuffer} (hg : s.rb.get = some (v, r)) :
    timerStep s = { s with
      rb := r
      pwd := if s.target = .tPwd then s.pwd.setIfInBounds s.played.toNat v else s.pwd
      guess := if s.target = .tGuess then s.guess.setIfInBounds s.played.toNat v else s.guess
      disp := v
      trace := s.trace ++ [v]
      played := s.played + 1#8
      hpc := .tExit } := by
  rw [timerStep_of_not_watermark hh hp, playByte_eq, hg]
  rfl

end TimerBody

theorem timerStep_of_exit {s : State} (hh : s.hpc = .tExit) : timerStep s = { s with
    ic := { s.ic with pnd := setLineBit s.ic.pnd 0 false }, hpc := .idle } := by
  rw [timerStep, hh]
  rfl

/-- Settles O42, by the position of the handler. -/
theorem timerHandlerEntersAndReturns : Obligations.TimerHandlerEntersAndReturns := by
  intro s
  refine ⟨fun h => ?_, fun h => ⟨setLineBit s.ic.pnd 0 false, fun k => lineBit_setLineBit .., ?_⟩⟩
  · rw [exec_timerIsr, timerStep, h]
    rfl
  · rw [exec_timerIsr, timerStep_of_exit h]

/-- Settles O43, by whether the playback is complete and whether the buffer is empty. -/
theorem timerBodyPlaysOrCompletes : Obligations.TimerBodyPlaysOrCompletes := by
  intro s hh
  refine ⟨fun hp => ?_, fun hp he => ?_, fun hp he => ?_⟩
  · rw [exec_timerIsr, timerStep_of_watermark hh hp]
  · rw [exec_timerIsr, timerStep_of_empty hh hp he]
  · have hg : s.rb.get = some (s.rb.buf[(slot s.rb.endIdx).val],
        { s.rb with endIdx := s.rb.inc s.rb.endIdx, full := false }) := if_neg (by simp [he])
    rw [exec_timerIsr, timerStep_of_byte hh hp hg]
    rfl

theorem timerStep_foreground (s : State) : (timerStep s).fpc = s.fpc ∧ (timerStep s).gs = s.gs ∧
    (timerStep s).port = s.port ∧ (timerStep s).sched = s.sched := by
  rw [timerStep_frame]
  exact ⟨rfl, rfl, rfl, rfl⟩

theorem timerStep_hpc_of_body {s : State} (hh : s.hpc = .tBody) : (timerStep s).hpc = .tExit := by
  rw [timerStep, hh]
  rfl

/-- What the body does to the registers that say how far the playback is, whatever the buffer holds. -/
theorem timerStep_progress {s : State} (hh : s.hpc = .tBody) :
    (s.played = s.showWatermark → (timerStep s).showDone = true ∧ (timerStep s).played = 0#8 ∧
      (timerStep s).tm[0].run = false ∧ (timerStep s).trace = s.trace) ∧
    (s.played ≠ s.showWatermark → (timerStep s).showDone = s.showDone ∧ (timerStep s).played = s.played + 1#8 ∧
      (timerStep s).tm[0].run = s.tm[0].run) := by
  refine ⟨fun hp => ?_, fun hp => ?_⟩
  · rw [timerStep_of_watermark hh hp]
    exact ⟨rfl, rfl, by simp, rfl⟩
  · rw [timerStep_of_not_watermark hh hp, playByte_eq]
    cases s.rb.get <;> exact ⟨rfl, rfl, rfl⟩

section TimerRun

variable {s : State} {es : List Event}

theorem step_deliver_timer (hi : s.hpc = .idle) (hd : s.ic.dispatchable 0 = true) (hv : s.ic.vec[0] = .vTmr)
    (hs : s.sched = .deliver 0 :: es) : step s = .next { s with sched := es, res := none, hpc := .tBody } := by
  rw [step_deliver hs hi hd]
  simp [hv, takeInterrupt]

theorem step_timer_exit (hh : s.hpc = .tExit) (hs : s.sched = .handler :: es) :
    step s = .next { s with
      sched := es, res := none, ic := { s.ic with pnd := setLineBit s.ic.pnd 0 false }, hpc := .idle } := by
  rw [step_timer hs (by rw [hh]; rfl)]
  exact congrArg _ (timerStep_of_exit (s := { s with sched := es, res := none }) hh)

end TimerRun

/-- Settles O44: the delivery, the body and the exit, of which only the body touches the playback. -/
theorem timerHandlerRunsToCompletion : Obligations.TimerHandlerRunsToCompletion := by
  intro s es hi hd hv hs
  rw [List.cons_append, List.cons_append, List.singleton_append] at hs
  have hbody : ({ s with sched := .handler :: es, res := none, hpc := .tBody } : State).hpc = .tBody := rfl
  obtain ⟨hfpc, hgs, hport, hsched⟩ := timerStep_foreground { s with sched := .handler :: es, res := none, hpc := .tBody }
  have hexit := step_timer_exit (timerStep_hpc_of_body hbody) hsched
  rw [runSteps_succ 2 (step_deliver_timer hi hd hv hs), runSteps_succ 1 (step_timer rfl rfl), runSteps_succ 0 hexit]
  exact ⟨_, rfl, rfl, by simp, hfpc, hgs, hport, rfl, timerStep_progress hbody⟩

/-! ### key_isr -/

/-- The scan in numbers: 15 and 16 are `KEY_TERM` and `KEY_NONE` (R8, R222; log 7). -/
theorem stepKScan_eq (s : State) : stepKScan s =
    if (kmScan s.kmRow).toNat = 15 then { s with inputDone := true, termSeen := true, hpc := .kRelease }
    else if (kmScan s.kmRow).toNat = 16 then { s with hpc := .kRelease }
    else { s with rb := s.rb.put ((kmScan s.kmRow).setWidth 8), hpc := .kRelease } := by
  simp only [stepKScan, ← BitVec.toNat_inj]
  rfl

/-- The exit as one record update: its branch on `term_seen` moved into the mask it decides (R225). -/
theorem keyStep_of_exit {s : State} (hh : s.hpc = .kExit) : keyStep s = { s with
    ic := { s.ic with
      msk := if s.termSeen then setLineBit s.ic.msk 6 true else s.ic.msk
      pnd := setLineBit s.ic.pnd 6 false }
    termSeen := false
    hpc := .idle } := by
  rw [keyStep, hh]
  simp only [stepKExit]
  cases s.termSeen <;> rfl

/-- Settles O40, by the position of the handler. -/
theorem keyHandlerEntersWaitsAndReturns : Obligations.KeyHandlerEntersWaitsAndReturns := by
  intro s
  refine ⟨fun h => ?_, fun h => ?_, fun h => ?_, fun h => ?_, fun h =>
    ⟨_, _, fun k => ?_, fun k => lineBit_setLineBit .., congrArg _ (keyStep_of_exit h)⟩⟩
  on_goal 5 => cases s.termSeen <;> simp
  all_goals
    rw [exec_keyIsr, keyStep, h]
    rfl

/-- Settles O41: the scan is its reading in numbers. -/
theorem keyScanCapturesOrEnds : Obligations.KeyScanCapturesOrEnds := by
  intro s h
  rw [exec_keyIsr, keyStep, h]
  exact congrArg _ (stepKScan_eq s)

/-- What `key_isr`, delivered at `s`, has done by its wait for release in `u` (R222): the part of the state that the polls and
an input change leave alone. -/
structure KeyScanned (s u : State) : Prop where
  hpc : u.hpc = .kRelease
  ic : u.ic = s.ic
  foreground : u.fpc = s.fpc ∧ u.gs = s.gs ∧ u.port = s.port
  termSeen : u.termSeen = decide ((kmScan s.kmRow).toNat = 15)
  inputDone : u.inputDone = if (kmScan s.kmRow).toNat = 15 then true else s.inputDone
  rb : u.rb = if (kmScan s.kmRow).toNat = 15 ∨ (kmScan s.kmRow).toNat = 16 then s.rb
    else s.rb.put ((kmScan s.kmRow).setWidth 8)

theorem keyScanned_stepKScan (s : State) (ht : s.termSeen = false) : KeyScanned s (stepKScan s) := by
  rw [stepKScan_eq]
  split_ifs with hterm hnone
  · exact ⟨rfl, rfl, ⟨rfl, rfl, rfl⟩, by simp [hterm], by simp [hterm], by simp [hterm]⟩
  · exact ⟨rfl, rfl, ⟨rfl, rfl, rfl⟩, by simp [hterm, ht], by simp [hterm], by simp [hnone]⟩
  · exact ⟨rfl, rfl, ⟨rfl, rfl, rfl⟩, by simp [hterm, ht], by simp [hterm], by simp [hterm, hnone]⟩

section KeyRun

variable {s : State} {es : List Event}

/-- From the delivery of the key line to the wait for release (R262, R221, R222). -/
theorem runSteps_key_to_release (hi : s.hpc = .idle) (hd : s.ic.dispatchable 6 = true) (hv : s.ic.vec[6] = .vKey)
    (hs : s.sched = .deliver 6 :: .handler :: .handler :: es) :
    ∃ u, (∀ n, runSteps (n + 3) s = runSteps n u) ∧ KeyScanned s u ∧ u.keyPin = s.keyPin ∧ u.res = none ∧ u.sched = es := by
  obtain ⟨-, hpin, hsched⟩ := stepKScan_keeps { s with sched := es, res := none, hpc := .kScan, termSeen := false }
  have hres : (stepKScan { s with sched := es, res := none, hpc := .kScan, termSeen := false }).res = none := by
    rw [stepKScan_eq]
    split_ifs <;> rfl
  exact ⟨_, fun n => runSteps_key_scan n hi hd hv hs, { keyScanned_stepKScan _ rfl with }, hpin, hres, hsched⟩

/-- From the release to the return (R223 to R225): the exit masks the key line only after the terminator. -/
theorem runSteps_key_to_return {u : State} (hu : KeyScanned s u) (hm : lineBit s.ic.msk 6 = false) (hp : u.keyPin = true)
    (hs : u.sched = .handler :: .handler :: .handler :: es) : ∃ t, runSteps 3 u = .next t ∧ KeyRunDone s t ∧ t.sched = es := by
  refine ⟨_, runSteps_key_exit hu.hpc hp hs, ?_, rfl⟩
  exact {
    idle := ⟨rfl, rfl⟩
    acknowledged := by simp
    foreground := hu.foreground
    terminator := fun h => by simp [hu.termSeen, hu.inputDone, hu.rb, h]
    other := fun h => by simp [hu.termSeen, hu.inputDone, hu.ic, hm, h]
    noKey := fun h => by simp [hu.rb, h]
    key := fun h => hu.rb.trans (if_neg (by omega)) }

end KeyRun

/-- The input change that releases the key raises no edge (R255). -/
theorem step_input_released {s : State} {rows : Vector Nibble 4} {es : List Event} (hs : s.sched = .input rows true :: es) :
    step s = .next { s with kmRow := rows, keyPin := true, sched := es, res := none } := by
  rw [step_of_sched hs, turn, inputChange]
  simp

/-- Settles O45: both runs reach the wait for release and return from it; a held key adds polls and the release between. -/
theorem keyHandlerRunsToCompletion : Obligations.KeyHandlerRunsToCompletion := by
  intro s es hi hd hv
  have hm := IntCtl.unmasked_of_dispatchable hd
  refine ⟨fun hp hs => ?_, fun n rows hp hs => ?_⟩
  · obtain ⟨u, hrun, hu, hpin, -, hsched⟩ := runSteps_key_to_release hi hd hv hs
    rw [hrun 3]
    exact runSteps_key_to_return hu hm (hpin.trans hp) hsched
  · simp only [List.append_assoc, List.cons_append, List.nil_append] at hs
    obtain ⟨u, hrun, hu, hpin, hres, hsched⟩ := runSteps_key_to_release hi hd hv hs
    rw [hrun (n + 4), runSteps_key_polls n 4 _ u hu.hpc (hpin.trans hp) hres hsched,
      runSteps_succ 3 (step_input_released rfl)]
    exact runSteps_key_to_return { hu with } hm rfl rfl

end Sys2Proof.Machine
end

section
/-! PROOFS. The read-back command (46_register_read.md R240, R241): which numbers name a register, block by block of the map, and
O31. -/

namespace Sys2Proof.Machine

open Sys2Proof

/-! ### The blocks of the map: each has a register at every offset below its size and at no other -/

theorem readRb_isSome_iff (r : RingBuffer) (k : Nat) : (readRb r k).isSome ↔ k < 8 := by
  match k with
  | 0 | 1 | 2 | 3 => simp [readRb]
  | k + 4 => simp [readRb]; omega

theorem readIc_isSome_iff (ic : IntCtl) (k : Nat) : (readIc ic k).isSome ↔ k < 5 := by
  match k with
  | 0 | 1 | 2 | 3 | 4 => simp [readIc]
  | k + 5 => simp [readIc]

theorem readTimer_isSome_iff (x : Timer) (k : Nat) : (readTimer x k).isSome ↔ k < 8 := by
  match k with
  | 0 | 1 | 2 | 3 | 4 | 5 | 6 | 7 => simp [readTimer]
  | k + 8 => simp [readTimer]

theorem readInput_isSome_iff (s : State) (k : Nat) : (readInput s k).isSome ↔ k < 5 := by
  unfold readInput
  split_ifs with hpin
  · simp [hpin]
  · simp; omega

theorem readFlag_isSome_iff (s : State) (k : Nat) : (readFlag s k).isSome ↔ k < 10 := by
  match k with
  | 0 | 1 | 2 | 3 | 4 | 5 | 6 | 7 | 8 | 9 => simp [readFlag]
  | k + 10 => simp [readFlag]

theorem readResult_isSome_iff (s : State) (k : Nat) : (readResult s k).isSome ↔ k < 9 := by
  unfold readResult
  split_ifs
  · simp; omega
  · simp; omega
  · simp; omega
  · simp; omega

/-- The timers' registers fill their block: number 0x40 + `m` is register `m % 8` of timer `m / 8` (R47). -/
theorem readTimers_isSome_iff (s : State) (m : Nat) :
    (s.tm[m / 8]?.bind fun x => readTimer x (m % 8)).isSome ↔ m < 48 := by
  by_cases hm : m < 48
  · have ht : m / 8 < 6 := by omega
    have hk : m % 8 < 8 := Nat.mod_lt _ (by decide)
    simp [ht, hm, readTimer_isSome_iff, hk]
  · have ht : ¬ m / 8 < 6 := by omega
    simp [ht, hm]

/-! ### The map and the command -/

/-- A number names a register exactly when it is listed (R241). -/
theorem readReg_isSome_iff (s : State) (n : Nat) : (readReg s n).isSome ↔ regNumberValid n = true := by
  simp only [regNumberValid, Bool.or_eq_true, Bool.and_eq_true, decide_eq_true_eq]
  unfold readReg
  split_ifs
  · simp; omega
  · rw [readRb_isSome_iff]; omega
  · rw [readIc_isSome_iff]; omega
  · simp; omega
  · rw [readTimers_isSome_iff]; omega
  · rw [readInput_isSome_iff]; omega
  · rw [readFlag_isSome_iff]; omega
  · rw [readResult_isSome_iff]; omega

theorem regNumberValid_iff_rangesOk (a : Byte) : regNumberValid a.toNat = true ↔ rangesOk (.sysRegrd a) := by
  simp [regNumberValid, rangesOk, or_assoc]

theorem exec_sysRegrd_of_some {s : State} {a : Byte} {v : Half} (h : readReg s a.toNat = some v) :
    exec (.sysRegrd a) s = .next (s.withRes (v.setWidth 32)) := by
  simp only [exec, execSysRegrd, h, done]

theorem exec_sysRegrd_of_none {s : State} {a : Byte} (h : readReg s a.toNat = none) :
    exec (.sysRegrd a) s = .next (s.withRes (errorWord .invalid)) := by
  simp only [exec, execSysRegrd, h, failed]

/-- Settles O31: the map has a register at the listed numbers only, and the command answers by that lookup. -/
theorem regrdReadsExactlyTheListedNumbers : Obligations.RegrdReadsExactlyTheListedNumbers := by
  intro s a
  have hlisted : (readReg s a.toNat).isSome ↔ rangesOk (.sysRegrd a) :=
    (readReg_isSome_iff s _).trans (regNumberValid_iff_rangesOk a)
  rw [← hlisted]
  constructor
  · intro hsome
    obtain ⟨v, hv⟩ := Option.isSome_iff_exists.mp hsome
    exact ⟨v, hv, exec_sysRegrd_of_some hv⟩
  · intro hnone
    exact exec_sysRegrd_of_none (Option.not_isSome_iff_eq_none.mp hnone)

end Sys2Proof.Machine
end

section
/-! PROOFS. What an instruction answers (60_exceptions.md R250 to R254): the operand checks in numbers, and for every instruction
either a completion or `INVALID` with no state written (O10, O11). -/

namespace Sys2Proof.Machine

open Sys2Proof

/-! ### The operand checks in numbers -/

theorem groupOf_isSome_iff (a : Byte) : (groupOf a).isSome ↔ a.toNat ≤ 2 := by
  unfold groupOf
  split_ifs with h
  · simp; omega
  · simp; omega

theorem prescaleOf_isSome_iff (b : Half) : (prescaleOf b).isSome ↔ b.toNat ≤ 255 := by
  unfold prescaleOf Config.pscMax
  split_ifs with h <;> simp [h]

theorem capacityOf_isSome_iff (a : Byte) : (capacityOf a).isSome ↔ 1 ≤ a.toNat ∧ a.toNat ≤ 4 := by
  unfold capacityOf Config.rbSlots
  split_ifs with h <;> simp [h]

theorem boolOf_isSome_iff (n : Nat) : (boolOf n).isSome ↔ n ≤ 1 := by
  match n with
  | 0 | 1 => simp [boolOf]
  | n + 2 => simp [boolOf]

theorem lineModeOf_isSome_iff (n : Nat) : (lineModeOf n).isSome ↔ n ≤ 1 := by
  match n with
  | 0 | 1 => simp [lineModeOf]
  | n + 2 => simp [lineModeOf]

theorem timerModeOf_isSome_iff (n : Nat) : (timerModeOf n).isSome ↔ n ≤ 1 := by
  match n with
  | 0 | 1 => simp [timerModeOf]
  | n + 2 => simp [timerModeOf]

theorem periodOf_isSome_iff (n : Nat) : (periodOf n).isSome ↔ n ≤ 3 := by
  match n with
  | 0 | 1 | 2 | 3 => simp [periodOf]
  | n + 4 => simp [periodOf]

/-- A code up to 6 is that of a ratio (R93). -/
theorem exists_ratioCode {n : Nat} (h : n ≤ 6) : ∃ r, n = (ratioCode r).toNat := by
  match n, h with
  | 0, _ => exact ⟨.div2, rfl⟩
  | 1, _ => exact ⟨.div4, rfl⟩
  | 2, _ => exact ⟨.div8, rfl⟩
  | 3, _ => exact ⟨.div16, rfl⟩
  | 4, _ => exact ⟨.divx, rfl⟩
  | 5, _ => exact ⟨.ext4, rfl⟩
  | 6, _ => exact ⟨.ext5, rfl⟩

/-- The table of R153, by the operand. -/
theorem dividerOf_isSome_iff (t : Fin 6) (b : Half) : (dividerOf t b).isSome ↔
    b.toNat ≤ 3 ∨ (b.toNat = 4 ∧ t.val ≤ 3) ∨ (b.toNat = 5 ∧ t.val = 4) ∨ (b.toNat = 6 ∧ t.val = 5) := by
  by_cases hb : b.toNat ≤ 6
  · obtain ⟨r, hr⟩ := exists_ratioCode hb
    rw [dividerOf_of_ratio hr, hr, ← ratioOk_iff]
    simp
  · rw [dividerOf_none t (by omega)]
    simp; omega

/-- The checks of `wellFormed` are the ranges of R251. -/
theorem wellFormed_iff_rangesOk (i : Instr) : i.wellFormed = true ↔ rangesOk i := by
  cases i with
  | sysRegrd a => exact regNumberValid_iff_rangesOk a
  | rbInit a => exact capacityOf_isSome_iff a
  | icCfgGlobal a b => simp [Instr.wellFormed, rangesOk, boolOf_isSome_iff]
  | icCfgFiq a => exact boolOf_isSome_iff _
  | icSetMode a b => simp [Instr.wellFormed, rangesOk, lineOf_isSome, lineModeOf_isSome_iff]
  | icEnable a | icDisable a | icAck a => simp [Instr.wellFormed, rangesOk, lineOf_isSome]
  | tmSetPrescaler a b => simp [Instr.wellFormed, rangesOk, groupOf_isSome_iff, prescaleOf_isSome_iff]
  | tmSetDivider a b =>
    simp only [Instr.wellFormed, rangesOk]
    by_cases ha : a.toNat ≤ 5
    · rw [timerOf_eq (t := ⟨a.toNat, by omega⟩) rfl, Option.bind_some, dividerOf_isSome_iff]
      simp [ha]
    · rw [timerOf_none (by omega)]
      simp [ha]
  | tmSetMode a b => simp [Instr.wellFormed, rangesOk, timerOf_isSome, timerModeOf_isSome_iff]
  | tmSetCount a b c | tmCommit a | tmStart a | tmStop a | tmIsRunning a =>
    simp [Instr.wellFormed, rangesOk, timerOf_isSome]
  | tmCfgPeriod a b c =>
    simp [Instr.wellFormed, rangesOk, timerOf_isSome, periodOf_isSome_iff, timerModeOf_isSome_iff, and_assoc]
  | rbReset | rbPut | rbGet | rbIsEmpty | rbIsFull | rbSize | rbCapacity | icReset | kmScan | fsmSetup | fsmLoop | keyIsr
  | timerIsr => simp [Instr.wellFormed, rangesOk]

/-! ### Result words -/

/-- A register or a code, zero-extended, is no error word (R94). -/
theorem setWidth_ne_invalid {w : Nat} (v : BitVec w) (hw : w < 32) : v.setWidth 32 ≠ errorWord .invalid := by
  intro h
  have hv : v.toNat < 2 ^ 31 := v.isLt.trans_le (Nat.pow_le_pow_right (by decide) (by omega))
  have hn := congrArg BitVec.toNat h
  simp only [BitVec.toNat_setWidth, errorWord, BitVec.toNat_ofNat] at hn
  omega

theorem flagWord_ne_invalid (b : Bool) : (if b then 1 else 0 : ResultWord) ≠ errorWord .invalid := by
  cases b <;> decide

/-- A buffer holds at most four bytes (R22, R116). -/
theorem sizeWord_ne_invalid {r : RingBuffer} (hr : r.Inv) : BitVec.ofInt 32 r.size ≠ errorWord .invalid := by
  have hlen := (r.contents_length_le hr).trans hr.cap_le
  rw [r.size_eq_length hr, BitVec.ofInt_natCast]
  intro h
  have hn := congrArg BitVec.toNat h
  simp only [BitVec.toNat_ofNat, errorWord] at hn
  omega

/-- A micro-step of `FSM.LOOP` outputs no result, or the code of the next state (R191, R192). -/
theorem loopStep_res (s : State) :
    (loopStep s).res = s.res ∨ ∃ g, (loopStep s).res = some ((gameCode g).setWidth 32) := by
  by_cases hf : s.fpc = .idle
  · left
    rw [loopStep, hf]
    rfl
  · rcases loopStep_cases hf with ⟨-, e⟩ | ⟨-, e⟩ | ⟨-, e⟩ | ⟨-, e⟩ | ⟨-, e⟩ | ⟨-, -, e⟩ | ⟨-, -, e⟩ | ⟨-, -, e⟩ |
      ⟨-, -, e⟩ | ⟨-, e⟩ | ⟨-, e⟩ | ⟨-, e⟩ | ⟨-, e⟩ | ⟨-, -, e⟩ | ⟨-, -, e⟩ | ⟨-, g, v, -, e⟩
    all_goals rw [e]
    · exact .inl rfl
    · exact .inl rfl
    · exact .inl rfl
    · exact .inl rfl
    · exact .inl rfl
    · exact .inl rfl
    · exact .inl rfl
    · exact .inr ⟨_, rfl⟩
    · exact .inl rfl
    · exact .inl rfl
    · exact .inl rfl
    · exact .inl rfl
    · exact .inl rfl
    · exact .inr ⟨_, rfl⟩
    · exact .inl rfl
    · exact .inr ⟨_, rfl⟩

/-! ### Every instruction completes or answers INVALID -/

/-- What `exec` answers: `INVALID` and nothing written where the instruction is not well formed (R250, R251), else a next state
whose result word, if the instruction outputs one, is not `INVALID`. -/
inductive Answer (i : Instr) (s : State) : StepResult → Prop
  | invalid (h : ¬ i.wellFormed) : Answer i s (failed .invalid s)
  | completed (t : State) (h : i.wellFormed)
      (hres : s.rb.Inv → s.res = none → t.res ≠ some (errorWord .invalid)) : Answer i s (.next t)

/-- A completion with the result word `v`. -/
theorem Answer.done {i : Instr} {s t : State} {v : ResultWord} (h : i.wellFormed)
    (hv : v ≠ errorWord .invalid := by decide) : Answer i s (done v t) :=
  .completed _ h fun _ _ hr => hv (Option.some.inj hr)

/-- The operand's reader decides: its answer is used, or the command answers `INVALID`. -/
theorem exec_answer (i : Instr) (s : State) : Answer i s (exec i s) := by
  cases i with
  | sysRegrd a =>
    simp only [exec, execSysRegrd]
    have hvalid : (readReg s a.toNat).isSome ↔ (Instr.sysRegrd a).wellFormed := readReg_isSome_iff s a.toNat
    cases hr : readReg s a.toNat with
    | some v => exact .done (by simp [← hvalid, hr]) (setWidth_ne_invalid v (by decide))
    | none => exact .invalid (by simp [← hvalid, hr])
  | rbGet =>
    simp only [exec, execRbGet]
    split
    · exact .done rfl (setWidth_ne_invalid _ (by decide))
    · exact .completed _ rfl fun _ _ => by simp [errorWord]
  | rbIsEmpty | rbIsFull => exact .done rfl (flagWord_ne_invalid _)
  | rbSize => exact .completed _ rfl fun hr _ h => sizeWord_ne_invalid hr (Option.some.inj h)
  | rbCapacity | kmScan => exact .done rfl (setWidth_ne_invalid _ (by decide))
  | rbReset | rbPut | icReset | fsmSetup => exact .done rfl
  | fsmLoop =>
    refine .completed _ rfl fun _ hnone => ?_
    rcases loopStep_res s with h | ⟨g, h⟩
    · simp [h, hnone]
    · simpa [h] using setWidth_ne_invalid (gameCode g) (by decide)
  | keyIsr =>
    have hres : (keyStep s).res = s.res := by rw [keyStep_frame]
    exact .completed _ rfl fun _ hnone => by simp [hres, hnone]
  | timerIsr =>
    have hres : (timerStep s).res = s.res := by rw [timerStep_frame]
    exact .completed _ rfl fun _ hnone => by simp [hres, hnone]
  | tmIsRunning a =>
    simp only [exec, execTmIsRunning]
    cases ht : timerOf a with
    | some t => exact .done (by simp [Instr.wellFormed, ht]) (flagWord_ne_invalid _)
    | none => exact .invalid (by simp [Instr.wellFormed, ht])
  | tmSetDivider a b =>
    simp only [exec, execTmSetDivider]
    split
    · split
      · exact .done (by simp [Instr.wellFormed, *])
      · exact .invalid (by simp [Instr.wellFormed, *])
    · exact .invalid (by simp [Instr.wellFormed, *])
  | rbInit | icCfgFiq | icEnable | icDisable | icAck | tmSetCount | tmCommit | tmStart | tmStop =>
    simp only [exec, execRbInit, execIcCfgFiq, execIcEnable, execIcDisable, execIcAck, execTmSetCount, execTmCommit,
      execTmStart, execTmStop]
    split
    · exact .done (by simp [Instr.wellFormed, *])
    · exact .invalid (by simp [Instr.wellFormed, *])
  | icCfgGlobal | icSetMode | tmSetPrescaler | tmSetMode =>
    simp only [exec, execIcCfgGlobal, execIcSetMode, execTmSetPrescaler, execTmSetMode]
    split
    · exact .done (by simp [Instr.wellFormed, *])
    · rename_i hnone
      refine .invalid ?_
      simp only [Instr.wellFormed, Bool.and_eq_true, Option.isSome_iff_exists]
      rintro ⟨⟨x, hx⟩, y, hy⟩
      exact hnone x y hx hy
  | tmCfgPeriod =>
    simp only [exec, execTmCfgPeriod]
    split
    · exact .done (by simp [Instr.wellFormed, *])
    · rename_i hnone
      refine .invalid ?_
      simp only [Instr.wellFormed, Bool.and_eq_true, Option.isSome_iff_exists]
      rintro ⟨⟨⟨t, ht⟩, p, hp⟩, m, hm⟩
      exact hnone t p m ht hp hm

/-- R253: an error is a result word, and a next state like any other. -/
theorem exec_next (i : Instr) (s : State) : ∃ t, exec i s = .next t := by
  have h := exec_answer i s
  generalize exec i s = o at h
  cases h with
  | invalid h => exact ⟨_, rfl⟩
  | completed t h hres => exact ⟨t, rfl⟩

theorem accept_next (w : CommandWord) (s : State) : ∃ t, accept w s = .next t := by
  unfold accept
  split
  · exact exec_next _ s
  · exact ⟨_, rfl⟩

/-- Every move is an update of the state or the performance of an instruction. -/
theorem turn_next (e : Event) (s : State) : ∃ t, turn e s = .next t := by
  cases e with
  | present | pulse | input | rst => exact ⟨_, rfl⟩
  | foreground =>
    simp only [turn, foregroundTurn]
    split_ifs
    · split
      · exact accept_next _ _
      · exact ⟨_, rfl⟩
    · exact exec_next .fsmLoop s
    · exact ⟨_, rfl⟩
  | handler =>
    simp only [turn, handlerTurn]
    split
    · exact ⟨_, rfl⟩
    · exact exec_next .keyIsr s
    · exact exec_next .timerIsr s
  | deliver l =>
    simp only [turn, deliverTurn]
    split_ifs
    · split
      · exact exec_next _ s
      · exact ⟨_, rfl⟩
    · exact ⟨_, rfl⟩

/-- Settles O10, instruction by instruction and then move by move. -/
theorem everyStepAnswersANextState : Obligations.EveryStepAnswersANextState :=
  ⟨exec_next, fun s => turn_next s.nextEvent s.consumeEvent⟩

/-- Settles O11: `exec` answers `INVALID` exactly where the instruction is not well formed, and `wellFormed` is the table in
numbers. -/
theorem invalidExactlyOutsideTheRanges : Obligations.InvalidExactlyOutsideTheRanges := by
  intro i s
  have hranges := wellFormed_iff_rangesOk i
  have h := exec_answer i s
  generalize exec i s = o at h ⊢
  cases h with
  | invalid h => exact ⟨fun _ => rfl, fun hok => absurd (hranges.mpr hok) h, hranges⟩
  | completed t h hres =>
    exact ⟨fun hbad => absurd (hranges.mp h) hbad, fun _ hr hnone => ⟨t, rfl, hres hr hnone⟩, hranges⟩

end Sys2Proof.Machine
end

section
/-! PROOFS. The pending bits (60_exceptions.md R255 to R257): what each move makes of `IC_PND`, said once, and the two statements
read off it (O48, O49). -/

namespace Sys2Proof.Machine

open Sys2Proof

/-- What the move `e` makes of `IC_PND`: one case per source event (R255) and per cause of clearing (R257). -/
inductive PendingTurn (e : Event) (s t : State) : Prop
  | kept (h : t.ic.pnd = s.ic.pnd)
  | reset (he : e = .rst) (h : t.ic.pnd = 0#8)
  | expiry (k : Fin 6) (he : e = .pulse k) (hr : s.tm[k.val].run = true) (hc : s.tm[k.val].cnt.toNat ≤ 1)
      (h : t.ic.pnd = setLineBit s.ic.pnd (Config.lineTmr k) true)
  | keyEdge (rows : Vector Nibble 4) (he : e = .input rows false) (hk : s.keyPin = true)
      (h : t.ic.pnd = setLineBit s.ic.pnd 6 true)
  | ack (w : CommandWord) (a : Byte) (l : Fin 8) (he : e = .foreground) (hp : s.port = some w)
      (hd : decodeCommand w = .ok (.icAck a)) (ha : a.toNat = l.val) (h : t.ic.pnd = setLineBit s.ic.pnd l false)
  | keyExit (he : e = .handler) (hh : s.hpc = .kExit) (h : t.ic.pnd = setLineBit s.ic.pnd 6 false)
  | timerExit (he : e = .handler) (hh : s.hpc = .tExit) (h : t.ic.pnd = setLineBit s.ic.pnd 0 false)

theorem keyStep_pending {s : State} (hc : contextOf s.hpc = .key) : PendingTurn .handler s (keyStep s) := by
  rcases keyStep_cases hc with ⟨-, e⟩ | ⟨-, -, e⟩ | ⟨-, -, -, e⟩ | ⟨-, -, -, e⟩ | ⟨-, -, e⟩ | ⟨-, -, e⟩ | ⟨-, e⟩ | ⟨hh, e⟩
  all_goals rw [e]
  · exact .kept rfl
  · exact .kept rfl
  · exact .kept rfl
  · exact .kept rfl
  · exact .kept rfl
  · exact .kept rfl
  · exact .kept rfl
  · exact .keyExit rfl hh rfl

theorem timerStep_pending {s : State} (hc : contextOf s.hpc = .tmr) : PendingTurn .handler s (timerStep s) := by
  rcases timerStep_cases hc with ⟨-, -, e⟩ | ⟨-, -, -, e⟩ | ⟨-, -, v, r, -, e⟩ | ⟨hh, e⟩
  all_goals rw [e]
  · exact .kept rfl
  · exact .kept rfl
  · exact .kept rfl
  · exact .timerExit rfl hh rfl

/-- The input change as one record update: its branch on the edge moved into the pending bits it decides (R255). -/
theorem inputChange_eq (rows : Vector Nibble 4) (pin : Bool) (s : State) : inputChange rows pin s = { s with
    kmRow := rows
    keyPin := pin
    ic := { s.ic with pnd := if s.keyPin && !pin then setLineBit s.ic.pnd 6 true else s.ic.pnd } } := by
  unfold inputChange
  split_ifs <;> rfl

theorem inputChange_pending (rows : Vector Nibble 4) (pin : Bool) (s : State) :
    PendingTurn (.input rows pin) s (inputChange rows pin s) := by
  rw [inputChange_eq]
  cases hk : s.keyPin <;> cases pin
  case true.false => exact .keyEdge rows rfl hk rfl
  all_goals exact .kept rfl

theorem turn_pending {e : Event} {s t : State} (h : turn e s = .next t) : PendingTurn e s t := by
  rcases turn_cases h with ⟨w, -, rfl⟩ | rfl | ⟨he, -, -, w, hp, hw⟩ | ⟨-, -, -, rfl⟩ | ⟨rfl, hc, rfl⟩ | ⟨rfl, hc, rfl⟩ |
    ⟨l, -, -, -, -, rfl⟩ | ⟨l, -, -, -, -, rfl⟩ | ⟨k, -, -, -, rfl⟩ | ⟨k, he, hr, hc, rfl⟩ | ⟨rows, pin, rfl, rfl⟩ | ⟨he, rfl⟩
  · unfold present
    split <;> exact .kept rfl
  · exact .kept rfl
  · rcases hw with ⟨-, rfl⟩ | ⟨-, rfl⟩ | ⟨-, rfl⟩ | ⟨i, hd, hx, h1, h2, -⟩
    · exact .kept rfl
    · rw [setupInterrupts_eq, setupState_eq]
      exact .kept rfl
    · exact .kept rfl
    · obtain ⟨h3, h4⟩ := decodeCommand_not_handler hd
      rcases exec_plain_pnd hx h1 h2 h3 h4 with hpnd | ⟨a, l, rfl, ha, hpnd⟩
      · exact .kept hpnd
      · exact .ack w a l he hp hd ha hpnd
  · rw [loopStep_frame]
    exact .kept rfl
  · exact keyStep_pending hc
  · exact timerStep_pending hc
  · exact .kept rfl
  · exact .kept rfl
  · exact .kept rfl
  · exact .expiry k he hr hc rfl
  · exact inputChange_pending rows pin s
  · exact .reset he rfl

/-- The pending bits after a step, by the move it made. -/
theorem step_pending {s t : State} (h : step s = .next t) : PendingTurn s.nextEvent s t := by
  obtain ⟨es, n, hs⟩ := step_eq_turn s
  rw [hs] at h
  cases turn_pending h with
  | kept h => exact .kept h
  | reset he h => exact .reset he h
  | expiry k he hr hc h => exact .expiry k he hr hc h
  | keyEdge rows he hk h => exact .keyEdge rows he hk h
  | ack w a l he hp hd ha h => exact .ack w a l he hp hd ha h
  | keyExit he hh h => exact .keyExit he hh h
  | timerExit he hh h => exact .timerExit he hh h

/-- Writing a bit changes that bit only, and to the value written. -/
theorem written_of_lineBit_ne {v w : Byte} {l k : Fin 8} {b : Bool} (hw : w = setLineBit v l b)
    (hne : lineBit w k ≠ lineBit v k) : k = l ∧ lineBit w k = b := by
  rw [hw, lineBit_setLineBit] at hne ⊢
  split_ifs at hne ⊢ with hk
  · exact ⟨hk, rfl⟩
  · exact absurd rfl hne

/-- Settles O48: of the moves that write `IC_PND`, the two handlers' exits and `IC.ACK` clear their own line's bit. -/
theorem pendingBitsAreClearedOnlyByAcknowledge : Obligations.PendingBitsAreClearedOnlyByAcknowledge := by
  intro s t l hstep hset hclear
  have hne : lineBit t.ic.pnd l ≠ lineBit s.ic.pnd l := by simp [hset, hclear]
  cases step_pending hstep with
  | kept h => exact absurd (by rw [h]) hne
  | reset he h => exact .inl he
  | expiry k he hr hc h | keyEdge rows he hk h =>
    obtain ⟨-, hone⟩ := written_of_lineBit_ne h hne
    simp [hclear] at hone
  | ack w a k he hp hd ha h =>
    obtain ⟨rfl, -⟩ := written_of_lineBit_ne h hne
    exact .inr (.inr ⟨he, w, a, hp, hd, ha⟩)
  | keyExit he hh h =>
    obtain ⟨hl, -⟩ := written_of_lineBit_ne h hne
    exact .inr (.inl ⟨he, .inl ⟨hh, hl⟩⟩)
  | timerExit he hh h =>
    obtain ⟨hl, -⟩ := written_of_lineBit_ne h hne
    exact .inr (.inl ⟨he, .inr ⟨hh, hl⟩⟩)

/-- Settles O49: of the moves that write `IC_PND`, an expiry and a falling edge set their own line's bit; the edge's effect is
that of `inputChange`, which reads no mask, mode or enable. -/
theorem pendingBitsAreSetBySourceEvents : Obligations.PendingBitsAreSetBySourceEvents := by
  refine ⟨fun s t l hstep hclear hset => ?_, fun s rows pin he => ?_⟩
  · have hne : lineBit t.ic.pnd l ≠ lineBit s.ic.pnd l := by simp [hset, hclear]
    cases step_pending hstep with
    | kept h => exact absurd (by rw [h]) hne
    | reset he h => simp [h, lineBit] at hset
    | expiry k he hr hc h =>
      obtain ⟨hl, -⟩ := written_of_lineBit_ne h hne
      exact .inl ⟨k, he, (congrArg Fin.val hl).symm, hr, hc⟩
    | keyEdge rows he hk h =>
      obtain ⟨hl, -⟩ := written_of_lineBit_ne h hne
      exact .inr ⟨hl, hk, rows, he⟩
    | ack w a k he hp hd ha h | keyExit he hh h | timerExit he hh h =>
      obtain ⟨-, hzero⟩ := written_of_lineBit_ne h hne
      simp [hset] at hzero
  · have hstep : step s = .next (inputChange rows pin s.consumeEvent) := by rw [step, he, turn]
    refine ⟨if s.keyPin && !pin then setLineBit s.ic.pnd 6 true else s.ic.pnd, fun k => ?_, ?_⟩
    · cases s.keyPin <;> cases pin <;> simp
    · rw [hstep, inputChange_eq, State.consumeEvent_keyPin, State.consumeEvent_ic]

end Sys2Proof.Machine
end

section
/-! PROOFS. Delivery (60_exceptions.md R258 to R267): which lines request and which are delivered (O8, O20), and what a delivery
and a handler leave of the foreground (O47). -/

namespace Sys2Proof.Machine

open Sys2Proof

/-! ### The gating of a line -/

/-- A line requests on `irq_out` (R258, R259). -/
theorem IntCtl.deliverable_irq_iff (ic : IntCtl) (l : Fin 8) : (ic.deliverable l && !lineBit ic.mod l) = true ↔
    ic.irqEn = true ∧ lineBit ic.pnd l = true ∧ lineBit ic.msk l = false ∧ lineBit ic.mod l = false := by
  unfold IntCtl.deliverable
  cases lineBit ic.mod l
  · simp only [Bool.not_false, Bool.and_true, Bool.and_eq_true, Bool.not_eq_true', if_false, Bool.false_eq_true]
    tauto
  · simp

/-- A line requests on `fiq_out` (R258, R259). -/
theorem IntCtl.deliverable_fiq_iff (ic : IntCtl) (l : Fin 8) : (ic.deliverable l && lineBit ic.mod l) = true ↔
    ic.fiqEn = true ∧ lineBit ic.pnd l = true ∧ lineBit ic.msk l = false ∧ lineBit ic.mod l = true := by
  unfold IntCtl.deliverable
  cases lineBit ic.mod l
  · simp
  · simp only [Bool.and_true, Bool.and_eq_true, Bool.not_eq_true', if_true]
    tauto

theorem mem_allLines : ∀ l : Fin 8, l ∈ allLines := by decide

/-- Settles O20: an output is the disjunction over all lines, and each line asks for its class's enable. -/
theorem requestOutputsFollowTheGating : Obligations.RequestOutputsFollowTheGating := by
  intro ic
  unfold IntCtl.irqOut IntCtl.fiqOut
  simp only [List.any_eq_true, mem_allLines, true_and, IntCtl.deliverable_irq_iff, IntCtl.deliverable_fiq_iff,
    exists_and_left]

/-- A line is dispatched when it requests an IRQ, dispatch is vectored and a handler is registered (R260). -/
theorem IntCtl.dispatchable_iff (ic : IntCtl) (l : Fin 8) : ic.dispatchable l = true ↔
    (lineBit ic.pnd l = true ∧ lineBit ic.msk l = false ∧ lineBit ic.mod l = false ∧ ic.irqEn = true ∧
      ic.vectored = true) ∧ ic.vec[l.val] ≠ .vNone := by
  unfold IntCtl.dispatchable
  rw [Bool.and_eq_true, Bool.and_eq_true, ic.deliverable_irq_iff]
  simp only [bne_iff_ne]
  tauto

/-! ### Deliver(l) -/

/-- A delivery that is enabled enters the registered handler (R262). -/
theorem deliverTurn_of_dispatchable {s : State} {l : Fin 8} (hi : s.hpc = .idle) (hd : s.ic.dispatchable l = true) :
    deliverTurn l s = .next (takeInterrupt s.ic.vec[l.val] s) := by
  unfold deliverTurn
  rw [if_pos ⟨hi, hd⟩]
  cases s.ic.vec[l.val] with
  | vNone => rfl
  | vKey => simp [vecCode, decodeVector, exec_keyIsr, keyStep, hi]
  | vTmr => simp [vecCode, decodeVector, exec_timerIsr, timerStep, hi]

/-- A delivery that is not enabled does nothing (log 2). -/
theorem deliverTurn_of_disabled {s : State} {l : Fin 8} (h : ¬ (s.hpc = .idle ∧ s.ic.dispatchable l = true)) :
    deliverTurn l s = .next s := if_neg h

/-- Settles O8, by whether the line is gated through, and then by the handler registered for it. -/
theorem deliveryStartsTheRegisteredHandler : Obligations.DeliveryStartsTheRegisteredHandler := by
  intro s l he
  have hstep : step s = deliverTurn l s.consumeEvent := by rw [step, he, turn]
  rw [hstep]
  have hdisp := s.ic.dispatchable_iff l
  split_ifs with hg
  · obtain ⟨hi, hline⟩ := hg
    have hvec : s.consumeEvent.ic.vec[l.val] = s.ic.vec[l.val] := by simp
    cases hv : s.ic.vec[l.val] with
    | vNone => exact deliverTurn_of_disabled (by simp [hdisp, hv])
    | vKey | vTmr =>
      rw [deliverTurn_of_dispatchable (by simpa using hi) (by simp [hdisp, hline, hv]), hvec, hv]
      rfl
  · refine deliverTurn_of_disabled fun ⟨hi, hd⟩ => hg ⟨by simpa using hi, ?_⟩
    exact (hdisp.mp (by simpa using hd)).1

/-! ### The frame of a delivery and of a handler step -/

/-- What a handler may write (R220 to R229), and a delivery with it: the ring buffer, the result buffers, the handlers' own
flags and position, the masks and pending bits, the timers and the display. -/
theorem turn_handler_frame {e : Event} {s t : State} (he : e = .handler ∨ ∃ l, e = .deliver l) (h : turn e s = .next t) :
    t = { s with
      rb := t.rb
      pwd := t.pwd
      guess := t.guess
      inputDone := t.inputDone
      showDone := t.showDone
      played := t.played
      termSeen := t.termSeen
      hpc := t.hpc
      ic := { s.ic with msk := t.ic.msk, pnd := t.ic.pnd }
      tm := t.tm
      disp := t.disp
      trace := t.trace } := by
  rcases he with rfl | ⟨l, rfl⟩
  · rcases handlerTurn_cases h with ⟨-, rfl⟩ | ⟨-, rfl⟩ | ⟨-, rfl⟩
    · rfl
    · rw [keyStep_frame]
    · rw [timerStep_frame]
  · rcases deliverTurn_cases h with rfl | ⟨-, -, ⟨-, rfl⟩ | ⟨-, rfl⟩⟩
    · rfl
    · rfl
    · rfl

/-- Settles O47: the foreground's registers are not among those a handler may write. -/
theorem handlersLeaveTheForegroundAlone : Obligations.HandlersLeaveTheForegroundAlone := by
  intro s t he h
  obtain ⟨es, n, hs⟩ := step_eq_turn s
  rw [hs] at h
  rw [turn_handler_frame he h]
  exact ⟨rfl, rfl, rfl, rfl, rfl, rfl, rfl, rfl, rfl, rfl, rfl, rfl, rfl⟩

end Sys2Proof.Machine
end

section
/-! PROOFS. A held key (70_reset_and_hazards.md R309): what the moves can still write while `key_isr` waits for its release
(O46). -/

namespace Sys2Proof.Machine

open Sys2Proof

/-- While `key_isr` polls a held key, both sequencers stand still and no handler is entered: what is left to a move but reset
are the inputs, the port, the timers and the pending bits (R266, R306, R309). -/
theorem turn_held_key_frame {e : Event} {s t : State} (hh : s.hpc = .kRelease) (hk : s.keyPin = false) (he : e ≠ .rst)
    (h : turn e s = .next t) : t = { s with
      ic := { s.ic with pnd := t.ic.pnd }
      tm := t.tm
      kmRow := t.kmRow
      keyPin := t.keyPin
      port := t.port } := by
  have hactive : s.hpc ≠ .idle := by simp [hh]
  rcases turn_cases h with ⟨w, -, rfl⟩ | rfl | ⟨-, hi, -⟩ | ⟨-, hi, -⟩ | ⟨-, -, rfl⟩ | ⟨-, hc, -⟩ | ⟨l, -, hi, -⟩ |
    ⟨l, -, hi, -⟩ | ⟨k, -, -, -, rfl⟩ | ⟨k, -, -, -, rfl⟩ | ⟨rows, pin, -, rfl⟩ | ⟨hr, -⟩
  · unfold present
    split <;> rfl
  · rfl
  · exact absurd hi hactive
  · exact absurd hi hactive
  · have hpoll : keyStep s = s := by simp [keyStep, stepKRelease, hh, hk]
    rw [hpoll]
  · simp [hh, contextOf] at hc
  · exact absurd hi hactive
  · exact absurd hi hactive
  · rfl
  · rfl
  · rw [inputChange_eq]
  · exact absurd hr he

/-- Settles O46: none of the registers named is among those a move may write while the key is held. -/
theorem heldKeyBlocksEverything : Obligations.HeldKeyBlocksEverything := by
  intro s t hh hk he hstep
  rw [turn_held_key_frame (s := s.consumeEvent) (by simpa using hh) (by simpa using hk) he hstep]
  simp [hh]

end Sys2Proof.Machine
end

section
/-! PROOFS. Hardware reset (70_reset_and_hazards.md R290): the state it leaves (O54), and what each block of the read-back map
shows of it (O55). -/

namespace Sys2Proof.Machine

open Sys2Proof

/-- Settles O54: the move is `hardwareReset`, and using it up leaves the inputs and the port as they were. -/
theorem hardwareResetReachesEveryRegister : Obligations.HardwareResetReachesEveryRegister := by
  intro s he
  have hstep : step s = .next (hardwareReset s.consumeEvent) := by rw [step, he, turn]
  rw [hstep, hardwareReset, State.consumeEvent_kmRow, State.consumeEvent_keyPin, State.consumeEvent_port]
  rfl

/-! ### The blocks of the map after reset -/

theorem readRb_reset {k : Nat} (hk : k < 8) : readRb State.reset.rb k = some (if k = 3 then 4#16 else 0#16) := by
  interval_cases k <;> rfl

theorem readIc_reset {k : Nat} (hk : k < 5) : readIc State.reset.ic k = some (if k = 1 then 0xFF#16 else 0#16) := by
  interval_cases k <;> rfl

theorem psc_reset {g : Nat} (hg : g < 3) : State.reset.psc[g] = 0#8 := by
  interval_cases g <;> rfl

theorem tm_reset {t : Nat} (ht : t < 6) : State.reset.tm[t] = Timer.initial := by
  interval_cases t <;> rfl

theorem readTimer_initial {k : Nat} (hk : k < 8) : readTimer Timer.initial k = some 0#16 := by
  interval_cases k <;> rfl

theorem readFlag_reset {k : Nat} (hk : k < 10) : readFlag State.reset k = some 0#16 := by
  interval_cases k <;> rfl

theorem readResult_reset {k : Nat} (hk : k < 9) : readResult State.reset k = some 0#16 := by
  interval_cases k <;> rfl

/-! ### The map after reset -/

/-- Every register but the inputs, `rb_cap` and `IC_MSK` reads 0 after reset (R46, R51, R290). -/
theorem readReg_reset {n : Nat} (hn : regNumberValid n = true) (hinput : ¬ (0x70 ≤ n ∧ n ≤ 0x74)) (hcap : n ≠ 0x13)
    (hmsk : n ≠ 0x21) : readReg State.reset n = some 0#16 := by
  simp only [regNumberValid, Bool.or_eq_true, Bool.and_eq_true, decide_eq_true_eq] at hn
  unfold readReg
  split_ifs
  · omega
  · rw [readRb_reset (by omega), if_neg (by omega)]
  · rw [readIc_reset (by omega), if_neg (by omega)]
  · have hg : n - 0x30 < 3 := by omega
    simp [hg, psc_reset]
  · have ht : (n - 0x40) / 8 < 6 := by omega
    have hk : (n - 0x40) % 8 < 8 := Nat.mod_lt _ (by decide)
    simp [ht, tm_reset, readTimer_initial hk]
  · omega
  · exact readFlag_reset (by omega)
  · exact readResult_reset (by omega)

/-- Settles O55: `rb_cap` and `IC_MSK` read their reset values, every other register 0. -/
theorem resetReadsBackItsValues : Obligations.ResetReadsBackItsValues := by
  refine ⟨rfl, fun n hn hinput => ?_⟩
  split_ifs with hcap hmsk
  · rw [hcap]
    rfl
  · rw [hmsk]
    rfl
  · refine readReg_reset ?_ hinput hcap hmsk
    rw [← regNumberValid_iff_rangesOk] at hn
    simpa [Nat.mod_eq_of_lt n.isLt] using hn

end Sys2Proof.Machine
end
